-- ==== Sys2Proof/Word.lean ====
section
/-! DEFINITION. The word types of the block (spec 00_scope.md R3, R4). A word is a bit vector whose bit 31 is the most
significant; the slice the spec writes `w[hi:lo]` is `w.extractLsb' lo (hi - lo + 1)` here. -/

namespace Sys2Proof

/-- One byte of a frame, bits 7 (most significant) to 0 (R4). -/
abbrev Byte := BitVec 8

/-- A command word or a reassembled response, `WORD_BITS` = 32 (R3). -/
abbrev Word := BitVec 32

/-- A sensor register address, the 6-bit operand `ADDR_OPERAND_BITS` (R3, R52; conflict C1 settles the width). -/
abbrev Addr := BitVec 6

/-- The three-bit status field of a response, `STATUS_BITS` (R3). -/
abbrev StatusField := BitVec 3

/-- A decoded register value, `VALUE_BITS` = 16, unsigned (R3, R13). -/
abbrev RegValue := BitVec 16

end Sys2Proof
end

