-- ==== Sys2Proof/Config.lean ====
section
/-! DEFINITION. The fixed parameters of the block (spec 00_scope.md R3, 20_memory.md R30) and the one parameter the spec
leaves OPEN. -/

namespace Sys2Proof.Config

/-- `TX_BASE`: the frame-buffer address of `TXBUF[0]` (R30). -/
def txBase : Nat := 0

/-- `RX_BASE`: the frame-buffer address of `RXBUF[0]` (R30). -/
def rxBase : Nat := 4

/-- `FRAME_BYTES`: bytes in a command frame and in a response frame (R3). -/
def frameBytes : Nat := 4

/-- Bytes of the frame-buffer space, addresses 0 to 7 (R30). -/
def spaceBytes : Nat := 8

/-- `EXPECTED_ID_HI`, the identity code the driver compares with, OPEN (R3, R125, decision D23): no value is given, so the
constant has no body and nothing can be proved of it. It is outside the block (log entry 13). -/
opaque expectedIdHi : Byte

end Sys2Proof.Config
end

