-- ==== Sys2Proof/Syntax.lean ====
section
/-! DEFINITION. What the block can be asked to do: the sixteen rows of spec/opcode_table.json, the three formats they are
written in, the steps of a host's program (42_host_sequence.md R128) and the lines of the spec's assembler (30_encoding.md
R65, R66). -/

namespace Sys2Proof

/-- The nine registers of the enumerated set (20_memory.md R37). -/
inductive SensorReg where
  | rate | temp | locst | hicst | quad | fault | pid | snh | snl
deriving DecidableEq, Repr

/-- The three encodings (30_encoding.md R50): the command word, the response frame, the host operation word. -/
inductive Format where
  | cmd32
  | resp32
  | hostOp8
deriving DecidableEq, Repr

/-- One constructor for each row of the opcode table. The `read…` rows are the read commands on the wire (CMD32), the
`resp…` rows the two classes of response frame (RESP32), the last four the host operations (HOSTOP8). -/
inductive Instr where
  /-- `READ`: the general read command `CmdWord(a)` (R87). -/
  | read (a : Addr)
  /-- `READ.RATE` (R78). -/
  | readRate
  /-- `READ.TEMP` (R79). -/
  | readTemp
  /-- `READ.LOCST` (R80). -/
  | readLocst
  /-- `READ.HICST` (R81). -/
  | readHicst
  /-- `READ.QUAD` (R82). -/
  | readQuad
  /-- `READ.FAULT` (R83). -/
  | readFault
  /-- `READ.PID` (R84). -/
  | readPid
  /-- `READ.SNH` (R85). -/
  | readSnh
  /-- `READ.SNL` (R86). -/
  | readSnl
  /-- `RESP.ERR`: the error frame with its 29 ignored bits (R106). -/
  | respErr (ignored : BitVec 29)
  /-- `RESP.DATA`: the data frame, fields as in R56 (R107). -/
  | respData (status : StatusField) (ignoredHi : Byte) (value : RegValue) (ignoredLo : BitVec 5)
  /-- `IDLE` (R120). -/
  | idle
  /-- `FRAME a` (R75). -/
  | frame (a : Addr)
  /-- `DECODE` (R105). -/
  | decode
  /-- `RSVD`, the reserved operation value (R121). -/
  | rsvd
deriving DecidableEq, Repr

/-- One step of a host's program (42_host_sequence.md R128, 10_state.md R26). -/
inductive HostStep where
  /-- The host presents an 8-bit operation word (R60). -/
  | op (b : Byte)
  /-- The environment's transfer; `r` is the response it draws, any 32 bits (R122). -/
  | xfer (r : Word)
  /-- The reset event (R160). -/
  | reset
deriving DecidableEq, Repr

/-- The operand of `FRAME` and `READREG` in the assembler: a register's mnemonic or a number (R65). -/
inductive RegOperand where
  | named (r : SensorReg)
  | number (a : Addr)
deriving DecidableEq, Repr

/-- One line of the spec's assembler (R65), and the pseudo-operation `READREG` (R66) with the response its transfer draws. -/
inductive AsmLine where
  | idle
  | frame (x : RegOperand)
  | decode
  | xfer (b0 b1 b2 b3 : Byte)
  | reset
  | readReg (x : RegOperand) (response : Word)
deriving DecidableEq, Repr

end Sys2Proof
end

