-- ==== Sys2Proof/Machine/Operands.lean ====
section
/-! DEFINITION. The operand forms: byte order of a frame (spec 00_scope.md R5), the register addresses (20_memory.md R37),
the fields of the three formats (30_encoding.md R51, R56, R60) and the byte halves of a value (41_frame_decoder.md R112). -/

namespace Sys2Proof.Machine

/-! Byte order (R5, R32). -/

/-- `BE32(b0, b1, b2, b3)`: byte 0 holds the most significant eight bits (R5). -/
def be32 (b0 b1 b2 b3 : Byte) : Word :=
  (b0.zeroExtend 32 <<< 24) ||| (b1.zeroExtend 32 <<< 16) ||| (b2.zeroExtend 32 <<< 8) ||| b3.zeroExtend 32

/-- Byte `i` of the big-endian layout of `w`, `w[31-8i : 24-8i]` (R5, R35). -/
def byteOf (w : Word) (i : Nat) : Byte := w.extractLsb' (24 - 8 * i) 8

/-- `Bytes(w)`: the four bytes, most significant first (R5). -/
def bytesOf (w : Word) : List Byte := [byteOf w 0, byteOf w 1, byteOf w 2, byteOf w 3]

/-! The register address map (R37). -/

/-- The address of an enumerated register (R37). -/
def regAddr : SensorReg → Addr
  | .rate => 0x00
  | .temp => 0x02
  | .locst => 0x04
  | .hicst => 0x06
  | .quad => 0x08
  | .fault => 0x0A
  | .pid => 0x0C
  | .snh => 0x0E
  | .snl => 0x10

/-- The enumerated set, in the order of R37. -/
def enumeratedRegs : List SensorReg := [.rate, .temp, .locst, .hicst, .quad, .fault, .pid, .snh, .snl]

/-- `IsEnumerated(a)` (R37). -/
def isEnumerated (a : Addr) : Bool := enumeratedRegs.any fun r => regAddr r == a

/-- The spec's register mnemonics (R37). -/
def regMnemonic : SensorReg → String
  | .rate => "RATE"
  | .temp => "TEMP"
  | .locst => "LOCST"
  | .hicst => "HICST"
  | .quad => "QUAD"
  | .fault => "FAULT"
  | .pid => "PID"
  | .snh => "SNH"
  | .snl => "SNL"

/-- The address an assembler operand stands for (R65). -/
def operandAddr : RegOperand → Addr
  | .named r => regAddr r
  | .number a => a

/-! Fields of RESP32 (R56, R57). -/

/-- The status field `S`, bits 31:29. -/
def statusField (w : Word) : StatusField := w.extractLsb' 29 3

/-- The value field `V`: shift right by 5 (logical), mask to 16 bits (R57, R103). -/
def valueField (w : Word) : RegValue := ((w >>> 5) &&& 0xFFFF#32).truncate 16

/-- The ignored bits 28:21 (R58). -/
def ignoredHiField (w : Word) : Byte := w.extractLsb' 21 8

/-- The ignored bits 4:0 (R58). -/
def ignoredLoField (w : Word) : BitVec 5 := w.extractLsb' 0 5

/-- Bits 28:0, all ignored in an error frame (R58). -/
def errorPayloadField (w : Word) : BitVec 29 := w.extractLsb' 0 29

/-- The RESP32 word of a data frame from its fields, bit by bit as the table of R56. -/
def respDataWord (status : StatusField) (ignoredHi : Byte) (value : RegValue) (ignoredLo : BitVec 5) : Word :=
  status ++ ignoredHi ++ value ++ ignoredLo

/-- The RESP32 word of an error frame: status `000` over 29 ignored bits (R56, R59). -/
def respErrWord (ignored : BitVec 29) : Word := 0b000#3 ++ ignored

/-! Fields of CMD32 (R51, R52). -/

/-- The register address a command word carries, bits 22:17 (R52, R88). -/
def addrField (w : Word) : Addr := w.extractLsb' 17 6

/-! Fields of HOSTOP8 (R60). -/

/-- `op`, bits 7:6. -/
def opField (b : Byte) : BitVec 2 := b.extractLsb' 6 2

/-- `addr`, bits 5:0. -/
def opAddrField (b : Byte) : Addr := b.extractLsb' 0 6

/-- The host operation word of `FRAME a`, `0x40 | a` (R65). -/
def frameOpWord (a : Addr) : Byte := 0b01#2 ++ a

/-- The canonical host operation word of `IDLE` (R63). -/
def idleOpWord : Byte := 0x00

/-- The canonical host operation word of `DECODE` (R63). -/
def decodeOpWord : Byte := 0x80

/-- The reserved operation word with its ignored field zero (R61, R63). -/
def rsvdOpWord : Byte := 0xC0

/-! Halves of a value (R112). -/

/-- `HiByte(v) = v[15:8]` (R112). -/
def hiByte (v : RegValue) : Byte := v.extractLsb' 8 8

/-- `LoByte(v) = v[7:0]` (R112). -/
def loByte (v : RegValue) : Byte := v.extractLsb' 0 8

end Sys2Proof.Machine
end

