-- ==== Sys2Proof/Machine/Flags.lean ====
section
/-! DEFINITION. The one-bit computations: parity (spec 40_command_framer.md R70, R71, R73), the command-word predicate
(30_encoding.md R55), the frame error (41_frame_decoder.md R102) and the output `err` (10_state.md R15). -/

namespace Sys2Proof.Machine

/-- `popcount(v)`: the number of 1 bits of `v` (00_scope.md R6). -/
def popcount {n : Nat} (v : BitVec n) : Nat := (List.range n).countP fun i => v.getLsbD i

/-- The exclusive or of all bits of `v` (R71). -/
def xorBits {n : Nat} (v : BitVec n) : Bool := (List.range n).foldl (fun p i => p ^^ v.getLsbD i) false

/-- The loop of `CalcParity` (R70): clear the lowest 1 bit, toggle the boolean, until nothing is left. The fuel bounds
the passes; R70: "The loop runs popcount(v) times, at most 32". -/
def parityLoop : Nat → Word → Bool → Bool
  | 0, _, parity => parity
  | fuel + 1, v, parity => if v = 0 then parity else parityLoop fuel (v &&& (v - 1)) (!parity)

/-- `CalcParity(v)`: true when `v` has an odd number of 1 bits (R70; bit 0 counts, conflict C4). -/
def calcParity (v : Word) : Bool := parityLoop 32 v false

/-- The parity bit in closed form: `P = ~(a[5] ^ … ^ a[0])` (R73). -/
def parityBit (a : Addr) : Bool := !xorBits a

/-- `IsCmdWord(w)`: read flag set, bits 30:23 and 16:1 zero, an even number of 1 bits (R55). -/
def isCmdWord (w : Word) : Bool :=
  w.getLsbD 31 && w.extractLsb' 23 8 == 0 && w.extractLsb' 1 16 == 0 && popcount w % 2 == 0

/-- `FrameError`: the top three bits of byte 0 are all zero (R102). -/
def frameError (b0 : Byte) : Bool := b0.extractLsb' 5 3 == 0

/-- The output `err` from the status field: `STATUS == 000` (R15). -/
def errOf (status : StatusField) : Bool := status == 0

end Sys2Proof.Machine
end

