-- ==== Sys2Proof/WellFormed.lean ====
section
/-! DEFINITION. Two checks on an instruction, each refusing by name.

`illFormed` says that a term is not the one its own encoding stands for (log entry 15). `outOfContract` is the host's
contract: spec 30_encoding.md R62 and R64 ask that a program with a reserved operation or a non-enumerated address be
refused by name at the well-formedness check, while the function itself stays total (log entries 3 and 4). -/

namespace Sys2Proof

/-- Why an instruction is refused by a check. -/
inductive IllFormed where
  /-- The general `READ` names an enumerated address: that word is the row of the register itself (R87). -/
  | readHasItsOwnRow (a : Addr)
  /-- A data frame with status `000`: that word is an error frame (R59, R107). -/
  | dataFrameWithErrorStatus
  /-- The register address is not one of the nine of R37 (R64, 93_implementation_defined.md U1). -/
  | addressNotEnumerated (a : Addr)
  /-- The reserved operation value `op = 11` (R62, U2). -/
  | reservedOperation
deriving DecidableEq, Repr

/-- The check of the term against its own encoding; `none` is well formed. -/
def Instr.illFormed : Instr → Option IllFormed
  | .read a => if Machine.isEnumerated a then some (.readHasItsOwnRow a) else none
  | .respData status _ _ _ => if status = 0 then some .dataFrameWithErrorStatus else none
  | .readRate | .readTemp | .readLocst | .readHicst | .readQuad | .readFault | .readPid | .readSnh | .readSnl => none
  | .respErr _ => none
  | .idle | .frame _ | .decode | .rsvd => none

/-- A term that its own encoding stands for. -/
def Instr.wellFormed (i : Instr) : Bool := i.illFormed.isNone

/-- The host's contract on what it asks for (R62, R64, R129); `none` is within the contract. -/
def Instr.outOfContract : Instr → Option IllFormed
  | .read a => if Machine.isEnumerated a then none else some (.addressNotEnumerated a)
  | .frame a => if Machine.isEnumerated a then none else some (.addressNotEnumerated a)
  | .rsvd => some .reservedOperation
  | .readRate | .readTemp | .readLocst | .readHicst | .readQuad | .readFault | .readPid | .readSnh | .readSnl => none
  | .respErr _ | .respData _ _ _ _ => none
  | .idle | .decode => none

end Sys2Proof
end

