-- ==== Sys2Proof/Decode.lean ====
section
/-! DEFINITION. The decoders of the three formats, total and refusing by name, and after them the encoder, written from
the bit tables of spec 30_encoding.md. Which decoder reads a word is fixed by where the word is: the host port (HOSTOP8),
the command side (CMD32) or the response side (RESP32); the formats carry no tag. -/

namespace Sys2Proof

/-- Why bytes are no instruction of a format. -/
inductive DecodeError where
  /-- The format has another length (R50). -/
  | wrongLength (bytes : Nat)
  /-- Bit 31 of a command word is clear: no read command (R54). -/
  | readFlagClear
  /-- Bits 30:24 or 16:1 of a command word are not zero (R54). -/
  | reservedBitsSet
  /-- Bit 23 of a command word is set: outside the 6-bit operand (R52, conflict C1). -/
  | addressBeyondOperand
  /-- A command word with an odd number of 1 bits (R53). -/
  | oddParity
deriving DecidableEq, Repr

/-- HOSTOP8 (R61): every byte decodes; the `addr` field counts for `FRAME` alone (R63). -/
def decodeHostOp (b : Byte) : Instr :=
  if Machine.opField b = 0b00 then .idle
  else if Machine.opField b = 0b01 then .frame (Machine.opAddrField b)
  else if Machine.opField b = 0b10 then .decode
  else .rsvd

/-- The row of the read command for an address: one of the nine enumerated rows, or the general one (R78 to R87). -/
def readRow (a : Addr) : Instr :=
  if a = 0x00 then .readRate
  else if a = 0x02 then .readTemp
  else if a = 0x04 then .readLocst
  else if a = 0x06 then .readHicst
  else if a = 0x08 then .readQuad
  else if a = 0x0A then .readFault
  else if a = 0x0C then .readPid
  else if a = 0x0E then .readSnh
  else if a = 0x10 then .readSnl
  else .read a

/-- CMD32 (R51 to R55): accepts exactly the words the block can build, and recovers the address from bits 22:17 (R88). -/
def decodeCmd (w : Word) : Except DecodeError Instr :=
  if w.getLsbD 31 = false then .error .readFlagClear
  else if w.extractLsb' 24 7 ≠ 0 ∨ w.extractLsb' 1 16 ≠ 0 then .error .reservedBitsSet
  else if w.getLsbD 23 = true then .error .addressBeyondOperand
  else if Machine.popcount w % 2 = 1 then .error .oddParity
  else .ok (readRow (Machine.addrField w))

/-- RESP32 (R59): every word is an error frame or a data frame. -/
def decodeResp (w : Word) : Instr :=
  if w &&& 0xE0000000#32 = 0 then .respErr (Machine.errorPayloadField w)
  else .respData (Machine.statusField w) (Machine.ignoredHiField w) (w.extractLsb' 5 16) (Machine.ignoredLoField w)

/-- The decoder of a format, over bytes as they are stored: byte 0 first, and byte 0 is the most significant (R32). -/
def decodeBytes : Format → List Byte → Except DecodeError Instr
  | .hostOp8, [b] => .ok (decodeHostOp b)
  | .cmd32, [b0, b1, b2, b3] => decodeCmd (Machine.be32 b0 b1 b2 b3)
  | .resp32, [b0, b1, b2, b3] => .ok (decodeResp (Machine.be32 b0 b1 b2 b3))
  | _, bytes => .error (.wrongLength bytes.length)

/-- The bytes of an instruction whose format has 4 bytes are a command where they can be one, else a response. The two
formats travel in opposite directions and overlap as bit patterns (95_test_vectors.md V4 row 21), so a reader that is not
told the direction must choose: log entry 7. -/
def decodeWire (bytes : List Byte) : Except DecodeError Instr :=
  match decodeBytes .cmd32 bytes with
  | .ok i => .ok i
  | .error _ => decodeBytes .resp32 bytes

/-- The instruction the decoder reads from a row's bits, laid out as the hardware stores them (log entries 7 and 16). -/
def decodeTableWord (nbits w : Nat) : Option Instr :=
  if nbits = 8 then (decodeBytes .hostOp8 [BitVec.ofNat 8 w]).toOption
  else if nbits = 32 then (decodeWire (Machine.bytesOf (BitVec.ofNat 32 w))).toOption
  else none

/-! The encoder. -/

/-- The format an instruction is written in. -/
def Instr.format : Instr → Format
  | .read _ => .cmd32
  | .readRate | .readTemp | .readLocst | .readHicst | .readQuad | .readFault | .readPid | .readSnh | .readSnl => .cmd32
  | .respErr _ | .respData _ _ _ _ => .resp32
  | .idle | .frame _ | .decode | .rsvd => .hostOp8

/-- The bytes in a format (R50). -/
def formatBytes : Format → Nat
  | .cmd32 => 4
  | .resp32 => 4
  | .hostOp8 => 1

/-- CMD32 field by field: read flag, seven zeros, the address in a 7-bit field, sixteen zeros, parity (R51, R52, R53). -/
def cmdFields (a : Addr) : Word :=
  1#1 ++ 0#7 ++ (0#1 ++ a) ++ 0#16 ++ BitVec.ofBool (Machine.popcount a % 2 == 0)

/-- The bytes of an instruction, byte 0 first; host operations in their canonical form (R63). The nine enumerated
command words are the opcode table's own. -/
def encode : Instr → List Byte
  | .read a => Machine.bytesOf (cmdFields a)
  | .readRate => Machine.bytesOf 0x80000001
  | .readTemp => Machine.bytesOf 0x80040000
  | .readLocst => Machine.bytesOf 0x80080000
  | .readHicst => Machine.bytesOf 0x800C0001
  | .readQuad => Machine.bytesOf 0x80100000
  | .readFault => Machine.bytesOf 0x80140001
  | .readPid => Machine.bytesOf 0x80180001
  | .readSnh => Machine.bytesOf 0x801C0000
  | .readSnl => Machine.bytesOf 0x80200000
  | .respErr ignored => Machine.bytesOf (Machine.respErrWord ignored)
  | .respData status ignoredHi value ignoredLo => Machine.bytesOf (Machine.respDataWord status ignoredHi value ignoredLo)
  | .idle => [Machine.idleOpWord]
  | .frame a => [Machine.frameOpWord a]
  | .decode => [Machine.decodeOpWord]
  | .rsvd => [Machine.rsvdOpWord]

end Sys2Proof
end

