-- ==== Sys2Proof/Machine/State.lean ====
section
/-! DEFINITION. The state of the block (spec 10_state.md R10), why a step can stop, and the state after reset (R24). -/

namespace Sys2Proof.Machine

/-- The frame-buffer space (20_memory.md R30) as address and byte pairs in canonical form: addresses strictly rising, no
pair with the byte an unlisted address reads as. `TXBUF` is addresses 0 to 3, `RXBUF` addresses 4 to 7. -/
abbrev Memory := List Host.Cell

/-- The state: the frame buffers `TXBUF` and `RXBUF`, `VALUE` and `STATUS` (R10), and the host's remaining steps. -/
structure State where
  /-- `TXBUF[0..3]` at 0 to 3 and `RXBUF[0..3]` at 4 to 7 (R11, R12, R30). -/
  frameBuffer : Memory
  /-- `VALUE`, the last decoded register value (R13). -/
  value : RegValue
  /-- `STATUS`, the status field of the last decoded frame (R14). -/
  status : StatusField
  /-- The MODEL's own field: the steps the host has still to take (42_host_sequence.md R128). It is host state that nothing
  in the block reads (R20); log entry 1. -/
  program : List HostStep
deriving DecidableEq, Repr

/-- Why the machine stops with a fault. The block itself has none (60_exceptions.md R140). -/
inductive Fault where
  /-- A frame-buffer access that does not lie inside addresses 0 to 7, where "Nothing else is addressable" (R30). Raised
  by `memRead` and `memWrite` for an address no operation uses (R34). Safe: the model stops (log entry 11). -/
  | outsideFrameBuffer (addr : Nat)
deriving DecidableEq, Repr

/-- Why a step has no meaning. -/
inductive Refusal where
  /-- Raised by an arm of `exec` for an instruction not modelled yet; no arm does. Safe: the model stops. -/
  | notModelled (mnemonic : String)
  /-- Raised by `step` when the host's list of steps is exhausted: the run has ended (R128). Safe: the model stops
  (log entry 2). -/
  | hostListEnded
deriving DecidableEq, Repr

/-- The state right after reset (R24): all four elements zero. The host's list is empty: a program is loaded from outside
(log entry 1). -/
def State.reset : State where
  frameBuffer := []
  value := 0x0000
  status := 0b000
  program := []

end Sys2Proof.Machine
end

