-- ==== Sys2Proof/Machine/Ops.lean ====
section
/-! DEFINITION. The named operations over the frame-buffer space and the result registers. The block takes no exception
and returns from none (spec 60_exceptions.md R140, R146, R147), so no shared operation for either exists. -/

namespace Sys2Proof.Machine

/-- The outcome of a step or a meaning. -/
abbrev Result := Host.Outcome State Fault Refusal

/-! The frame-buffer space, byte by byte (20_memory.md R30). -/

/-- What an address that is not listed reads as: the reset content, `00` (10_state.md R24; log entry 10). -/
def unlistedByte : Byte := 0x00

/-- `FB[a]`: the byte at a frame-buffer address. -/
def readByte : Memory → Nat → Byte
  | [], _ => unlistedByte
  | (b, v) :: m, a => if b = a then v else readByte m a

/-- The space without its entries at `a`. -/
def eraseByte (m : Memory) (a : Nat) : Memory := m.filter fun c => c.1 != a

/-- The space with an entry put in its place in address order. -/
def insertByte : Memory → Nat → Byte → Memory
  | [], a, v => [(a, v)]
  | (b, w) :: m, a, v => if a < b then (a, v) :: (b, w) :: m else (b, w) :: insertByte m a v

/-- `FB[a] <- v`, keeping the canonical form: a byte equal to what an unlisted address reads as is not listed. -/
def writeByte (m : Memory) (a : Nat) (v : Byte) : Memory :=
  if v = unlistedByte then eraseByte m a else insertByte (eraseByte m a) a v

/-- The canonical form of the space: addresses strictly rising and inside 0 to 7, no listed byte that an unlisted address
would read as anyway. -/
abbrev Memory.wf (m : Memory) : Prop :=
  m.Pairwise (fun c d => c.1 < d.1) ∧ ∀ c ∈ m, c.1 < Config.spaceBytes ∧ c.2 ≠ unlistedByte

/-- Whether the four bytes from `addr` lie in the space (R30). -/
abbrev inSpace (addr : Nat) : Prop := addr + Config.frameBytes ≤ Config.spaceBytes

/-- The four byte writes of `MemWrite(addr, 4, v)`, most significant byte at the lowest address (R31). -/
def writeFrame (m : Memory) (addr : Nat) (v : Word) : Memory :=
  writeByte (writeByte (writeByte (writeByte m addr (byteOf v 0)) (addr + 1) (byteOf v 1)) (addr + 2) (byteOf v 2))
    (addr + 3) (byteOf v 3)

/-- The big-endian reassembly of the four bytes from `addr` (R31). -/
def readFrame (m : Memory) (addr : Nat) : Word :=
  be32 (readByte m addr) (readByte m (addr + 1)) (readByte m (addr + 2)) (readByte m (addr + 3))

/-- `MemWrite(addr, 4, v)` (R31); outside the space it faults (log entry 11). -/
def memWrite (addr : Nat) (v : Word) (s : State) : Result :=
  if inSpace addr then .next { s with frameBuffer := writeFrame s.frameBuffer addr v }
  else .fault (.outsideFrameBuffer addr)

/-- `MemRead(addr, 4)` (R31), with no side effect (R33); outside the space it faults (log entry 11). -/
def memRead (addr : Nat) (s : State) : Except Fault Word :=
  if inSpace addr then .ok (readFrame s.frameBuffer addr) else .error (.outsideFrameBuffer addr)

/-! Outputs: plain wires from the registers (10_state.md R15, R16). -/

/-- The byte at a frame-buffer address, as an observer sees it (R35). -/
def State.byteAt (s : State) (a : Nat) : Byte := readByte s.frameBuffer a

/-- `TXW`: the command frame as a word (R16). -/
def State.txw (s : State) : Word := readFrame s.frameBuffer Config.txBase

/-- `RXW`: the response frame as a word (R16). -/
def State.rxw (s : State) : Word := readFrame s.frameBuffer Config.rxBase

/-- `err`: the last decoded frame was an error frame, or nothing has been decoded since reset (R15). -/
def State.err (s : State) : Bool := errOf s.status

/-! The command word (40_command_framer.md R72, R74). -/

/-- The word with the read flag and the address field set, bit 0 clear (R72). -/
def cmdPayload (a : Addr) : Word := 0x80000000#32 ||| (a.zeroExtend 32 <<< 17)

/-- `CmdWord(a)` (R72). -/
def cmdWord (a : Addr) : Word :=
  if calcParity (cmdPayload a) then cmdPayload a ||| 0x00000001#32 else cmdPayload a

/-- `CmdBytes(a)` (R74). -/
def cmdBytes (a : Addr) : List Byte := bytesOf (cmdWord a)

/-- The framer's one effect: the command word of `a` in the command frame buffer (R75). -/
def issueCommand (a : Addr) (s : State) : Result := memWrite Config.txBase (cmdWord a) s

/-! The response (41_frame_decoder.md R100 to R105). -/

/-- `RespWord` (R100). -/
def respWord (b0 b1 b2 b3 : Byte) : Word := be32 b0 b1 b2 b3

/-- `StatusOf`: bits 7:5 of byte 0 (R101). -/
def statusOf (b0 _b1 _b2 _b3 : Byte) : StatusField := b0.extractLsb' 5 3

/-- `ValueOf`: zero for an error frame, else bits 20:5 of the reassembled word (R103). -/
def valueOf (b0 b1 b2 b3 : Byte) : RegValue :=
  if b0 &&& 0xE0#8 = 0 then 0x0000 else valueField (respWord b0 b1 b2 b3)

/-- The decoder's one effect: latch the status field of `w` and its value, `VALUE` and `STATUS` together (R105). -/
def latchFrame (w : Word) (s : State) : State :=
  { s with
    status := statusField w
    value := if statusField w = 0b000 then 0x0000 else valueField w }

/-! The environment and reset (42_host_sequence.md R122, 70_reset_and_hazards.md R160). -/

/-- What an `XFER` step at `s` sends to the sensor: the four bytes of `TXBUF` (R122, R168). -/
def sentCommand (s : State) : Except Fault Word := memRead Config.txBase s

/-- `XFER` with the response `r` (R122): the command is read and sent, the response is written to `RXBUF`; `r` is related
to nothing (log entry 9). -/
def transfer (r : Word) (s : State) : Result :=
  match sentCommand s with
  | .ok _ => memWrite Config.rxBase r s
  | .error f => .fault f

/-- `RESET`: the four state elements at the values of R24 (R160); the host's list is not the block's and stays
(log entry 12). -/
def resetBlock (s : State) : State := { State.reset with program := s.program }

/-! The host's port (30_encoding.md R60). -/

/-- The step the host takes next, and the state with that step taken from its list; `none` when the list is exhausted
(R128). -/
def fetchStep (s : State) : Option (HostStep × State) :=
  match s.program with
  | [] => none
  | e :: rest => some (e, { s with program := rest })

/-- The host is about to present the operation word `b`. -/
def presentOp (b : Byte) (s : State) : State := { s with program := .op b :: s.program }

/-- The state in which the next step runs the command `w`: the host is about to present `FRAME` of its address (R78 to
R87: "Issued by `FRAME` …"; log entry 5). -/
def presentCommand (w : Word) (s : State) : State := presentOp (frameOpWord (addrField w)) s

/-- The state in which the next step decodes the response `w`: `RXBUF` holds it and the host is about to present `DECODE`
(R106, R107; log entry 6). -/
def presentResponse (w : Word) (s : State) : State :=
  presentOp decodeOpWord { s with frameBuffer := writeFrame s.frameBuffer Config.rxBase w }

end Sys2Proof.Machine
end

