-- ==== Sys2Proof/Machine/Decoder.lean ====
section
/-! DEFINITION. The decoder's family: `DECODE` (spec 41_frame_decoder.md R105) and the two classes of response frame (R106,
R107).

A response frame is a word on the wire. What the block does with it is what its rule says `DECODE` gives for it, so that is
its meaning here: the results are latched, the frame buffers keep their bytes (log entry 6). -/

namespace Sys2Proof.Machine

/-- `DECODE` (R105): the frame in `RXBUF` is read, its status field and value are latched. -/
def execDecode (s : State) : Result :=
  match memRead Config.rxBase s with
  | .ok w => .next (latchFrame w s)
  | .error f => .fault f

/-- `RESP.ERR`: what `DECODE` gives for an error frame, whatever its 29 other bits (R106). -/
def execRespErr (ignored : BitVec 29) (s : State) : Result := .next (latchFrame (respErrWord ignored) s)

/-- `RESP.DATA`: what `DECODE` gives for a data frame; the ignored fields take part in nothing (R107, R58). -/
def execRespData (status : StatusField) (ignoredHi : Byte) (value : RegValue) (ignoredLo : BitVec 5) (s : State) : Result :=
  .next (latchFrame (respDataWord status ignoredHi value ignoredLo) s)

end Sys2Proof.Machine
end

