-- ==== Sys2Proof/Machine/Framer.lean ====
section
/-! DEFINITION. The framer's family: `FRAME` (spec 40_command_framer.md R75) and the ten read commands (R78 to R87).

A read command is a word on the wire. The step of the block that issues it is the `FRAME` step its rule names ("Issued by
`FRAME RATE`"), so that is its meaning here: the command word goes to `TXBUF` and nothing else changes (log entry 5). -/

namespace Sys2Proof.Machine

/-- `FRAME a` (R75): `MemWrite(TX_BASE, 4, CmdWord(a))`, for every one of the 64 addresses (R64, R77; log entry 4). -/
def execFrame (a : Addr) (s : State) : Result := issueCommand a s

/-- `READ`: the command `CmdWord(a)`, any 6-bit `a` (R87). -/
def execRead (a : Addr) (s : State) : Result := issueCommand a s

/-- `READ.RATE` (R78). -/
def execReadRate (s : State) : Result := issueCommand (regAddr .rate) s

/-- `READ.TEMP` (R79). -/
def execReadTemp (s : State) : Result := issueCommand (regAddr .temp) s

/-- `READ.LOCST` (R80). -/
def execReadLocst (s : State) : Result := issueCommand (regAddr .locst) s

/-- `READ.HICST` (R81). -/
def execReadHicst (s : State) : Result := issueCommand (regAddr .hicst) s

/-- `READ.QUAD` (R82). -/
def execReadQuad (s : State) : Result := issueCommand (regAddr .quad) s

/-- `READ.FAULT` (R83). -/
def execReadFault (s : State) : Result := issueCommand (regAddr .fault) s

/-- `READ.PID` (R84). -/
def execReadPid (s : State) : Result := issueCommand (regAddr .pid) s

/-- `READ.SNH` (R85). -/
def execReadSnh (s : State) : Result := issueCommand (regAddr .snh) s

/-- `READ.SNL` (R86). -/
def execReadSnl (s : State) : Result := issueCommand (regAddr .snl) s

end Sys2Proof.Machine
end

