-- ==== Sys2Proof/Machine/HostSequence.lean ====
section
/-! DEFINITION. The host's operations without effect: `IDLE` (spec 42_host_sequence.md R120) and the reserved operation
(R121), and the expansion of the assembler's lines (30_encoding.md R65, R66). -/

namespace Sys2Proof.Machine

/-- `IDLE` does nothing (R120). -/
def execIdle (s : State) : Result := .next s

/-- `RSVD`: "the hardware changes no state, exactly as `IDLE`" (R121; log entry 3). -/
def execRsvd (s : State) : Result := .next s

/-- `READREG`: `FRAME`, one `XFER` with the response `r`, `DECODE` (R66, R123). -/
def readRegSteps (a : Addr) (r : Word) : List HostStep := [.op (frameOpWord a), .xfer r, .op decodeOpWord]

/-- What an assembler line stands for (R65, R66; log entry 17). -/
def assemble : AsmLine → List HostStep
  | .idle => [.op idleOpWord]
  | .frame x => [.op (frameOpWord (operandAddr x))]
  | .decode => [.op decodeOpWord]
  | .xfer b0 b1 b2 b3 => [.xfer (be32 b0 b1 b2 b3)]
  | .reset => [.reset]
  | .readReg x r => readRegSteps (operandAddr x) r

end Sys2Proof.Machine
end

