-- ==== Sys2Proof/Machine/Dispatch.lean ====
section
/-! DEFINITION. One arm per row of the opcode table. -/

namespace Sys2Proof.Machine

def exec (i : Instr) (s : State) : Host.Outcome State Fault Refusal :=
  match i with
  | .read a => Sys2Proof.Machine.execRead a s
  | .readRate => Sys2Proof.Machine.execReadRate s
  | .readTemp => Sys2Proof.Machine.execReadTemp s
  | .readLocst => Sys2Proof.Machine.execReadLocst s
  | .readHicst => Sys2Proof.Machine.execReadHicst s
  | .readQuad => Sys2Proof.Machine.execReadQuad s
  | .readFault => Sys2Proof.Machine.execReadFault s
  | .readPid => Sys2Proof.Machine.execReadPid s
  | .readSnh => Sys2Proof.Machine.execReadSnh s
  | .readSnl => Sys2Proof.Machine.execReadSnl s
  | .respErr ignored => Sys2Proof.Machine.execRespErr ignored s
  | .respData status ignoredHi value ignoredLo => Sys2Proof.Machine.execRespData status ignoredHi value ignoredLo s
  | .idle => Sys2Proof.Machine.execIdle s
  | .frame a => Sys2Proof.Machine.execFrame a s
  | .decode => Sys2Proof.Machine.execDecode s
  | .rsvd => Sys2Proof.Machine.execRsvd s

end Sys2Proof.Machine
end

