-- ==== Sys2Proof/Machine/Events.lean ====
section
/-! DEFINITION. What each step of a host's program does (spec 10_state.md R26, 42_host_sequence.md R128). -/

namespace Sys2Proof.Machine

/-- One step: the block runs the operation the host presents, the environment transfers, or the block is reset. -/
def runStep (e : HostStep) (s : State) : Result :=
  match e with
  | .op b => exec (decodeHostOp b) s
  | .xfer r => transfer r s
  | .reset => .next (resetBlock s)

/-- The host's list put in the state in which the next step runs the row whose bits are `w`: an operation word is
presented; a command word is issued by the operation its rule names; a response is put in `RXBUF` and decoded
(log entries 5, 6, 7, 16). -/
def presentTableWord (s : State) (nbits w : Nat) : State :=
  if nbits = 8 then presentOp (BitVec.ofNat 8 w) s
  else if nbits = 32 then
    match decodeCmd (BitVec.ofNat 32 w) with
    | .ok _ => presentCommand (BitVec.ofNat 32 w) s
    | .error _ => presentResponse (BitVec.ofNat 32 w) s
  else s

end Sys2Proof.Machine
end

