-- ==== Sys2Proof/Machine/Step.lean ====
section
/-! DEFINITION. One step of the machine: the next step of the host's program is taken from its list and run whole (spec
10_state.md R26); when the list is exhausted the run has ended (42_host_sequence.md R128). -/

namespace Sys2Proof.Machine

/-- One step. -/
def step (s : State) : Host.Outcome State Fault Refusal :=
  match fetchStep s with
  | some (e, t) => runStep e t
  | none => .refused .hostListEnded

/-- The state whose next step runs the instruction with the bits `w` (log entry 1). -/
def State.withFetchWord (s : State) (nbits w : Nat) : State := presentTableWord s nbits w

end Sys2Proof.Machine
end

