-- ==== Sys2Proof/Safety.lean ====
section
/-! DEFINITION. What claims about the machine are stated in: the shape of a completed framer or decoder step with its frame,
the invariants of spec 10_state.md R17 and R18, the host's duties (42_host_sequence.md R129) and the driver's identity test
at the block's boundary (R125). -/

namespace Sys2Proof.Machine

/-- The outcome is a next state in which `TXBUF` holds the word `w`, every byte outside the four bytes stored at `TX_BASE`
reads as before, and the results and the host's list are unchanged (40_command_framer.md R75). -/
def CommandIssued (s : State) (w : Word) (o : Result) : Prop :=
  ∃ t, o = .next t ∧ t.txw = w ∧
    (∀ a, ¬ (Config.txBase ≤ a ∧ a < Config.txBase + Config.frameBytes) → t.byteAt a = s.byteAt a) ∧
    t.value = s.value ∧ t.status = s.status ∧ t.program = s.program

/-- The outcome is a next state with `STATUS` and `VALUE` as given; every byte of the frame buffers reads as before and the
host's list is unchanged (41_frame_decoder.md R105). -/
def ResultLatched (s : State) (status : StatusField) (value : RegValue) (o : Result) : Prop :=
  ∃ t, o = .next t ∧ t.status = status ∧ t.value = value ∧ (∀ a, t.byteAt a = s.byteAt a) ∧ t.program = s.program

/-- The outcome is a next state in which `RXBUF` holds `r`, every byte outside the four bytes stored at `RX_BASE` reads as
before, and the results and the host's list are unchanged (42_host_sequence.md R122). -/
def ResponseReceived (s : State) (r : Word) (o : Result) : Prop :=
  ∃ t, o = .next t ∧ t.rxw = r ∧
    (∀ a, ¬ (Config.rxBase ≤ a ∧ a < Config.rxBase + Config.frameBytes) → t.byteAt a = s.byteAt a) ∧
    t.value = s.value ∧ t.status = s.status ∧ t.program = s.program

/-- What rules R78 to R86 say of one enumerated register: its address, the payload, the 1 bits of the payload, the parity
bit, the command word, the frame bytes, the host operation word that issues it, and the `FRAME` step that stores it. -/
def EnumeratedCommand (r : SensorReg) (addr : Addr) (payload : Word) (ones : Nat) (parity : Bool) (word : Word)
    (bytes : List Byte) (opWord : Byte) : Prop :=
  regAddr r = addr ∧ cmdPayload addr = payload ∧ popcount payload = ones ∧ parityBit addr = parity ∧
    cmdWord addr = word ∧ cmdBytes addr = bytes ∧ decodeHostOp opWord = .frame addr ∧
    ∀ s, CommandIssued s word (exec (.frame addr) s)

/-- Invariant TX (R17): no command built yet, or a command word. -/
def InvTx (s : State) : Prop := s.txw = 0x00000000 ∨ ∃ a : Addr, s.txw = cmdWord a

/-- Invariant RES (R18): status `000` comes with the value zero. -/
def InvRes (s : State) : Prop := s.status = 0b000 → s.value = 0x0000

/-- The frame-buffer space is in canonical form. -/
def InvSpace (s : State) : Prop := Memory.wf s.frameBuffer

/-! A run (42_host_sequence.md R128). -/

/-- The run of the program `p` from `s`: as many steps as the list is long, so that it ends when the list is exhausted (R128). -/
def runToEnd (p : List HostStep) (s : State) : Result := Host.Core.run Sys2Proof.core p.length { s with program := p }

/-! The host's duties (R129), none of which the block checks. -/

/-- The first operation of a program that the host's contract does not allow, by name (30_encoding.md R62, R64;
93_implementation_defined.md U1, U2); `none` is a program within the contract. -/
def programRefusal : List HostStep → Option IllFormed
  | [] => none
  | .op b :: rest =>
    match (decodeHostOp b).outOfContract with
    | some e => some e
    | none => programRefusal rest
  | .xfer _ :: rest => programRefusal rest
  | .reset :: rest => programRefusal rest

/-- Where the host is in a register read (R123, R168, R169). -/
inductive ReadPhase where
  /-- No read is under way. -/
  | quiet
  /-- A command is framed and not yet sent. -/
  | framed
  /-- The response has arrived and is not yet decoded. -/
  | answered
deriving DecidableEq, Repr

/-- The host keeps `FRAME`, `XFER`, `DECODE` of one read together and in that order, one `XFER` for each `FRAME` (R123, R129,
70_reset_and_hazards.md R168, R169). `IDLE` and the reserved operation may stand anywhere, `RESET` ends a read, a `DECODE`
outside a read is allowed, and a list may end inside a read: log entry 18. -/
def keepsSequence : ReadPhase → List HostStep → Bool
  | _, [] => true
  | phase, .op b :: rest =>
    match decodeHostOp b, phase with
    | .frame _, .quiet => keepsSequence .framed rest
    | .frame _, _ => false
    | .decode, .framed => false
    | .decode, _ => keepsSequence .quiet rest
    | _, phase => keepsSequence phase rest
  | .framed, .xfer _ :: rest => keepsSequence .answered rest
  | _, .xfer _ :: _ => false
  | _, .reset :: rest => keepsSequence .quiet rest

/-! The identity read (R125): the test is the driver's, outside the block. -/

/-- `HiByte(VALUE) == expected`. -/
def identityMatches (expected : Byte) (s : State) : Bool := hiByte s.value == expected

/-- The driver's test with the parameter the spec leaves OPEN (R125, log entry 13). -/
def driverAcceptsIdentity (s : State) : Bool := identityMatches Config.expectedIdHi s

end Sys2Proof.Machine
end

