-- ==== Sys2Proof/Certificates/Slice0/Obligations.lean ====
section
/-! DEFINITION. The statements for the provers. Each docstring names the rule of spec/ it formalises, or says that it rests
on a choice of the model and names the log entry. -/

open Sys2Proof Sys2Proof.Machine

/-! Reset and the state. -/

/-- 10_state.md R24. -/
def Obligations.ResetStateValues : Prop :=
  (∀ a, a < Config.spaceBytes → State.reset.byteAt a = 0x00) ∧ State.reset.value = 0x0000 ∧ State.reset.status = 0b000 ∧
    State.reset.txw = 0x00000000 ∧ State.reset.rxw = 0x00000000 ∧ State.reset.err = true

/-- 10_state.md R25. -/
def Obligations.ResetIsDecodeOfZeroFrame : Prop :=
  frameError 0x00 = true ∧ statusOf 0x00 0x00 0x00 0x00 = 0b000 ∧ valueOf 0x00 0x00 0x00 0x00 = 0x0000 ∧
    errOf (statusOf 0x00 0x00 0x00 0x00) = true ∧
    State.reset.value = valueOf 0x00 0x00 0x00 0x00 ∧ State.reset.status = statusOf 0x00 0x00 0x00 0x00 ∧
    exec .decode State.reset = .next State.reset

/-- 70_reset_and_hazards.md R160, for a `RESET` that is a step of its own (log entry 12). -/
def Obligations.ResetStepClearsBlock : Prop :=
  ∀ (s : State) (rest : List HostStep),
    step { s with program := .reset :: rest } = .next { State.reset with program := rest }

/-- 10_state.md R10 to R12, the column "written by": which steps can change which element. -/
def Obligations.WritersOfEachElement : Prop :=
  ∀ (e : HostStep) (s t : State), runStep e s = .next t →
    (∀ a, a < Config.rxBase → t.byteAt a ≠ s.byteAt a → e = .reset ∨ ∃ b, e = .op b ∧ opField b = 0b01) ∧
    (∀ a, Config.rxBase ≤ a → t.byteAt a ≠ s.byteAt a → e = .reset ∨ ∃ r, e = .xfer r) ∧
    (t.value ≠ s.value ∨ t.status ≠ s.status → e = .reset ∨ ∃ b, e = .op b ∧ opField b = 0b10)

/-! Byte order and the frame-buffer space. -/

/-- 00_scope.md R5. -/
def Obligations.BigEndianFrames : Prop :=
  (∀ b0 b1 b2 b3 : Byte,
    be32 b0 b1 b2 b3 =
      (b0.zeroExtend 32 <<< 24) ||| (b1.zeroExtend 32 <<< 16) ||| (b2.zeroExtend 32 <<< 8) ||| b3.zeroExtend 32) ∧
  (∀ w : Word, bytesOf w = [w.extractLsb' 24 8, w.extractLsb' 16 8, w.extractLsb' 8 8, w.extractLsb' 0 8]) ∧
  (∀ w : Word, be32 (byteOf w 0) (byteOf w 1) (byteOf w 2) (byteOf w 3) = w) ∧
  (∀ b0 b1 b2 b3 : Byte, bytesOf (be32 b0 b1 b2 b3) = [b0, b1, b2, b3])

/-- 20_memory.md R35. -/
def Obligations.ByteViewOfFrames : Prop :=
  ∀ s : State,
    (∀ i, i < 4 → s.byteAt i = s.txw.extractLsb' (24 - 8 * i) 8 ∧ s.byteAt (4 + i) = s.rxw.extractLsb' (24 - 8 * i) 8) ∧
    s.txw.getLsbD 31 = (s.byteAt 0).getLsbD 7 ∧ s.txw.getLsbD 0 = (s.byteAt 3).getLsbD 0 ∧
    s.txw.extractLsb' 17 7 = (s.byteAt 1).extractLsb' 1 7 ∧
    s.rxw.extractLsb' 29 3 = (s.byteAt 4).extractLsb' 5 3 ∧
    s.rxw.extractLsb' 5 16 =
      (s.byteAt 5).extractLsb' 0 5 ++ s.byteAt 6 ++ (s.byteAt 7).extractLsb' 5 3

/-- 20_memory.md R31 inside the space; outside it the named fault is the model's own (log entry 11). -/
def Obligations.MemWriteThenMemRead : Prop :=
  ∀ (addr : Nat) (v : Word) (s : State),
    if addr + 4 ≤ 8 then
      ∃ t, memWrite addr v s = .next t ∧ memRead addr t = .ok v ∧
        (∀ i, i < 4 → t.byteAt (addr + i) = v.extractLsb' (24 - 8 * i) 8) ∧
        (∀ a, ¬ (addr ≤ a ∧ a < addr + 4) → t.byteAt a = s.byteAt a) ∧
        t.value = s.value ∧ t.status = s.status ∧ t.program = s.program
    else memWrite addr v s = .fault (.outsideFrameBuffer addr) ∧ memRead addr s = .error (.outsideFrameBuffer addr)

/-- The canonical form is unique (log entry 10): two spaces in it that read alike are equal data. -/
def Obligations.CanonicalSpacesAreEqualData : Prop :=
  ∀ m n : Memory, Memory.wf m → Memory.wf n → (∀ a, readByte m a = readByte n a) → m = n

/-! Parity and the command word. -/

/-- 40_command_framer.md R70: the result, the examples, the loop, and that it runs `popcount(v)` times, at most 32: after
`n` passes, for `n` up to `popcount(v)`, it stands at `v` with its lowest 1 bit cleared `n` times and the boolean toggled
`n` times, and that working value is 0 at `popcount(v)` passes and not before. -/
def Obligations.ParityLoopOfTheSpec : Prop :=
  calcParity 0 = false ∧ calcParity 1 = true ∧ calcParity 3 = false ∧
    (∀ v : Word, calcParity v = true ↔ popcount v % 2 = 1) ∧
    (∀ v : Word, v ≠ 0 → calcParity v = !calcParity (v &&& (v - 1))) ∧
    (∀ v : Word, popcount v ≤ 32 ∧ ∀ (n : Nat) (p : Bool), popcount v ≤ n → parityLoop n v p = parityLoop (popcount v) v p) ∧
    (∀ (v : Word) (n : Nat), n ≤ popcount v →
      (∀ (m : Nat) (p : Bool),
        parityLoop (n + m) v p = parityLoop m ((fun x : Word => x &&& (x - 1))^[n] v) (p ^^ decide (n % 2 = 1))) ∧
      ((fun x : Word => x &&& (x - 1))^[n] v = 0 ↔ n = popcount v))

/-- 40_command_framer.md R71, with the step of its argument: each pass of the loop removes exactly one 1 bit. -/
def Obligations.ParityIsXorOfAllBits : Prop :=
  ∀ v : Word, calcParity v = decide (popcount v % 2 = 1) ∧ calcParity v = xorBits v ∧
    (v ≠ 0 → popcount (v &&& (v - 1)) + 1 = popcount v)

/-- 40_command_framer.md R73. -/
def Obligations.ParityBitClosedForm : Prop :=
  ∀ a : Addr,
    popcount (cmdPayload a) = 1 + popcount a ∧
    (parityBit a = true ↔ popcount a % 2 = 0) ∧
    parityBit a =
      !(a.getLsbD 5 ^^ a.getLsbD 4 ^^ a.getLsbD 3 ^^ a.getLsbD 2 ^^ a.getLsbD 1 ^^ a.getLsbD 0) ∧
    cmdWord a = 0x80000000#32 ||| (a.zeroExtend 32 <<< 17) ||| (BitVec.ofBool (parityBit a)).zeroExtend 32

/-- 40_command_framer.md R76. -/
def Obligations.CommandWordProperties : Prop :=
  ∀ a : Addr,
    popcount (cmdWord a) % 2 = 0 ∧ (cmdWord a).getLsbD 31 = true ∧ (cmdWord a).extractLsb' 17 7 = a.zeroExtend 7 ∧
    (cmdWord a).extractLsb' 24 7 = 0 ∧ (cmdWord a).extractLsb' 1 16 = 0 ∧ isCmdWord (cmdWord a) = true

/-- 40_command_framer.md R88. -/
def Obligations.CommandWordInjective : Prop :=
  (∀ a b : Addr, cmdWord a = cmdWord b ↔ a = b) ∧ ∀ a : Addr, (cmdWord a).extractLsb' 17 6 = a ∧ addrField (cmdWord a) = a

/-- 30_encoding.md R55. -/
def Obligations.CommandWordsExactly : Prop :=
  (∀ w : Word,
    (isCmdWord w = true ↔
      w.getLsbD 31 = true ∧ w.extractLsb' 23 8 = 0 ∧ w.extractLsb' 1 16 = 0 ∧ popcount w % 2 = 0) ∧
    (isCmdWord w = true ↔ w = cmdWord (w.extractLsb' 17 6)) ∧
    (isCmdWord w = true ↔ w &&& 0xFF81FFFE#32 = 0x80000000#32 ∧ popcount w % 2 = 0)) ∧
  ∃ ws : List Word, ws.Nodup ∧ ws.length = 64 ∧ ∀ w, isCmdWord w = true ↔ w ∈ ws

/-- 20_memory.md R37. -/
def Obligations.SensorRegisterMap : Prop :=
  (∀ a : Addr, isEnumerated a = true ↔
    a ∈ ([0x00, 0x02, 0x04, 0x06, 0x08, 0x0A, 0x0C, 0x0E, 0x10] : List Addr)) ∧
  enumeratedRegs.map (fun r => (regMnemonic r, regAddr r)) =
    [("RATE", 0x00), ("TEMP", 0x02), ("LOCST", 0x04), ("HICST", 0x06), ("QUAD", 0x08), ("FAULT", 0x0A), ("PID", 0x0C),
      ("SNH", 0x0E), ("SNL", 0x10)] ∧
  ∀ r : SensorReg, r ∈ enumeratedRegs

/-! The framer's operations. -/

/-- 40_command_framer.md R75. -/
def Obligations.FrameBuildsCommand : Prop :=
  (∀ (a : Addr) (s : State), CommandIssued s (cmdWord a) (exec (.frame a) s)) ∧
  (∀ (a : Addr) (s : State), ∃ t u, exec (.frame a) s = .next t ∧ exec (.frame a) t = .next u ∧
    (∀ x, u.byteAt x = t.byteAt x) ∧ u.value = t.value ∧ u.status = t.status ∧ u.program = t.program) ∧
  (∀ b : Byte, opField b = 0b01 → decodeHostOp b = .frame (opAddrField b)) ∧
  cmdWord 0x00 = 0x80000001 ∧ cmdWord 0x3F = 0x807E0001 ∧
  decodeHostOp 0x4C = .frame 0x0C ∧ cmdBytes 0x0C = [0x80, 0x18, 0x00, 0x01]

/-- 40_command_framer.md R74, as the bytes a `FRAME` step leaves in `TXBUF`. -/
def Obligations.FrameStoresCommandBytes : Prop :=
  ∀ (a : Addr) (s : State),
    cmdBytes a = [0x80#8, a.zeroExtend 8 <<< 1, 0x00#8, (BitVec.ofBool (parityBit a)).zeroExtend 8] ∧
    ∃ t, exec (.frame a) s = .next t ∧ [t.byteAt 0, t.byteAt 1, t.byteAt 2, t.byteAt 3] = cmdBytes a

/-- 40_command_framer.md R78 to R86. -/
def Obligations.NineReadCommandWords : Prop :=
  EnumeratedCommand .rate 0x00 0x80000000 1 true 0x80000001 [0x80, 0x00, 0x00, 0x01] 0x40 ∧
  EnumeratedCommand .temp 0x02 0x80040000 2 false 0x80040000 [0x80, 0x04, 0x00, 0x00] 0x42 ∧
  EnumeratedCommand .locst 0x04 0x80080000 2 false 0x80080000 [0x80, 0x08, 0x00, 0x00] 0x44 ∧
  EnumeratedCommand .hicst 0x06 0x800C0000 3 true 0x800C0001 [0x80, 0x0C, 0x00, 0x01] 0x46 ∧
  EnumeratedCommand .quad 0x08 0x80100000 2 false 0x80100000 [0x80, 0x10, 0x00, 0x00] 0x48 ∧
  EnumeratedCommand .fault 0x0A 0x80140000 3 true 0x80140001 [0x80, 0x14, 0x00, 0x01] 0x4A ∧
  EnumeratedCommand .pid 0x0C 0x80180000 3 true 0x80180001 [0x80, 0x18, 0x00, 0x01] 0x4C ∧
  EnumeratedCommand .snh 0x0E 0x801C0000 4 false 0x801C0000 [0x80, 0x1C, 0x00, 0x00] 0x4E ∧
  EnumeratedCommand .snl 0x10 0x80200000 2 false 0x80200000 [0x80, 0x20, 0x00, 0x00] 0x50

/-- That a read command's meaning is the `FRAME` step its rule names is the model's reading (log entry 5); the words are
those of 40_command_framer.md R78 to R87. -/
def Obligations.ReadRowsIssueTheirCommand : Prop :=
  ∀ s : State,
    CommandIssued s 0x80000001 (exec .readRate s) ∧ CommandIssued s 0x80040000 (exec .readTemp s) ∧
    CommandIssued s 0x80080000 (exec .readLocst s) ∧ CommandIssued s 0x800C0001 (exec .readHicst s) ∧
    CommandIssued s 0x80100000 (exec .readQuad s) ∧ CommandIssued s 0x80140001 (exec .readFault s) ∧
    CommandIssued s 0x80180001 (exec .readPid s) ∧ CommandIssued s 0x801C0000 (exec .readSnh s) ∧
    CommandIssued s 0x80200000 (exec .readSnl s) ∧
    ∀ a : Addr, CommandIssued s (cmdWord a) (exec (.read a) s) ∧ exec (readRow a) s = exec (.frame a) s

/-- What 30_encoding.md R64 says of a non-enumerated address, split as the model splits it (log entry 4): the step builds
the command by the same formula, and the check refuses by name a program with such a `FRAME` at any position. -/
def Obligations.NonEnumeratedFrameIsBuiltAndNamed : Prop :=
  ∀ a : Addr, isEnumerated a = false →
    (∀ s : State, CommandIssued s (cmdWord a) (exec (.frame a) s)) ∧
    (Instr.frame a).outOfContract = some (.addressNotEnumerated a) ∧
    (∀ pre rest : List HostStep, programRefusal pre = none →
      programRefusal (pre ++ .op (frameOpWord a) :: rest) = some (.addressNotEnumerated a)) ∧
    ∀ pre rest : List HostStep, programRefusal (pre ++ .op (frameOpWord a) :: rest) ≠ none

/-! The decoder's operations. -/

/-- 41_frame_decoder.md R105. -/
def Obligations.DecodeLatchesResponse : Prop :=
  (∀ s : State,
    ResultLatched s (s.rxw.extractLsb' 29 3)
      (if s.rxw.extractLsb' 29 3 = 0b000 then 0x0000 else s.rxw.extractLsb' 5 16) (exec .decode s) ∧
    ∃ t, exec .decode s = .next t ∧ t.err = frameError (s.byteAt 4) ∧ exec .decode t = .next t) ∧
  ∀ b : Byte, opField b = 0b10 → decodeHostOp b = .decode

/-- 41_frame_decoder.md R106. -/
def Obligations.ErrorFramesDecodeToZero : Prop :=
  (∀ s : State, s.rxw.extractLsb' 29 3 = 0b000 →
    ResultLatched s 0b000 0x0000 (exec .decode s) ∧ ∃ t, exec .decode s = .next t ∧ t.err = true) ∧
  ∀ w : Word, (w.extractLsb' 29 3 = 0b000 ↔ w &&& 0xE0000000#32 = 0) ∧
    (w &&& 0xE0000000#32 = 0 ↔ w.toNat ≤ 0x1FFFFFFF)

/-- 41_frame_decoder.md R107. -/
def Obligations.DataFramesDecodeToTheirField : Prop :=
  (∀ s : State, s.rxw.extractLsb' 29 3 ≠ 0b000 →
    ResultLatched s (s.rxw.extractLsb' 29 3) (s.rxw.extractLsb' 5 16) (exec .decode s) ∧
    ∃ t, exec .decode s = .next t ∧ t.err = false) ∧
  valueOf 0xE0 0x00 0x20 0x00 = 0x0100

/-- That a response row's meaning is what `DECODE` gives for a frame of it is the model's reading (log entry 6); the
results are those of 41_frame_decoder.md R106 and R107. -/
def Obligations.ResponseRowsLatchTheirResult : Prop :=
  ∀ s : State,
    (∀ ignored : BitVec 29, ResultLatched s 0b000 0x0000 (exec (.respErr ignored) s)) ∧
    (∀ (status : StatusField) (ignoredHi : Byte) (value : RegValue) (ignoredLo : BitVec 5),
      ResultLatched s status (if status = 0b000 then 0x0000 else value)
        (exec (.respData status ignoredHi value ignoredLo) s)) ∧
    exec (decodeResp s.rxw) s = exec .decode s

/-- 41_frame_decoder.md R100 to R103: the operation latches what the decoder's functions give for the bytes of `RXBUF`
("`VALUE` is exactly what the document's FrameDecoder returns", R105). -/
def Obligations.DecodeRefinesDecoderFunctions : Prop :=
  ∀ s : State, ∃ t, exec .decode s = .next t ∧
    t.status = statusOf (s.byteAt 4) (s.byteAt 5) (s.byteAt 6) (s.byteAt 7) ∧
    t.value = valueOf (s.byteAt 4) (s.byteAt 5) (s.byteAt 6) (s.byteAt 7) ∧
    t.err = frameError (s.byteAt 4)

/-- 41_frame_decoder.md R102. -/
def Obligations.FrameErrorTests : Prop :=
  ∀ b0 : Byte, (frameError b0 = true ↔ b0.extractLsb' 5 3 = 0b000) ∧ (frameError b0 = true ↔ b0 &&& 0xE0#8 = 0) ∧
    (frameError b0 = true ↔ b0 ≤ 0x1F#8)

/-- 41_frame_decoder.md R104. -/
def Obligations.ValueFromBytes : Prop :=
  (∀ b0 b1 b2 b3 : Byte, b0.extractLsb' 5 3 ≠ 0b000 →
    valueOf b0 b1 b2 b3 =
      (((b1.extractLsb' 0 5).zeroExtend 16 <<< 11) ||| (b2.zeroExtend 16 <<< 3) ||| (b3.extractLsb' 5 3).zeroExtend 16) ∧
    valueOf b0 b1 b2 b3 = b1.extractLsb' 0 5 ++ b2 ++ b3.extractLsb' 5 3) ∧
  ∀ b0 b1 b2 b3 c0 c1 c3 : Byte, frameError b0 = frameError c0 → b1.extractLsb' 0 5 = c1.extractLsb' 0 5 →
    b3.extractLsb' 5 3 = c3.extractLsb' 5 3 → valueOf b0 b1 b2 b3 = valueOf c0 c1 b2 c3

/-- 41_frame_decoder.md R109: the decoder's value field, which is a logical shift, is what an arithmetic shift gives too,
and so is the `VALUE` that `DECODE` leaves for a data frame. -/
def Obligations.RightShiftKindIrrelevant : Prop :=
  (∀ w : Word, valueField w = w.extractLsb' 5 16 ∧ valueField w = ((w >>> 5) &&& 0xFFFF#32).truncate 16 ∧
    valueField w = ((w.sshiftRight 5) &&& 0xFFFF#32).truncate 16) ∧
  ∀ s : State, s.rxw.extractLsb' 29 3 ≠ 0b000 → ∃ t, exec .decode s = .next t ∧
    t.value = ((s.rxw >>> 5) &&& 0xFFFF#32).truncate 16 ∧
    t.value = ((s.rxw.sshiftRight 5) &&& 0xFFFF#32).truncate 16

/-- 41_frame_decoder.md R112. -/
def Obligations.HighByteOfDecodedValue : Prop :=
  (∀ v : RegValue, hiByte v = v.extractLsb' 8 8 ∧ loByte v = v.extractLsb' 0 8) ∧
  ∀ s : State, s.rxw.extractLsb' 29 3 ≠ 0b000 → ∃ t, exec .decode s = .next t ∧
    hiByte t.value = s.rxw.extractLsb' 13 8 ∧
    hiByte t.value = (s.byteAt 5).extractLsb' 0 5 ++ (s.byteAt 6).extractLsb' 5 3

/-- 42_host_sequence.md R125, its last two sentences: after an error frame the identity test depends on the parameter
alone. The test as a function of the state is the model's (log entry 13). -/
def Obligations.IdentityTestAfterErrorFrame : Prop :=
  ∀ (s : State) (expected : Byte), s.rxw.extractLsb' 29 3 = 0b000 →
    ∃ t, exec .decode s = .next t ∧ hiByte t.value = 0x00 ∧ (identityMatches expected t = true ↔ expected = 0x00)

/-! Operations without effect, the environment, and the register read. -/

/-- 42_host_sequence.md R120: `IDLE` answers the same state, and a program (R128) with any number of `IDLE` steps put in
anywhere ends as it does without them. -/
def Obligations.IdleChangesNothing : Prop :=
  (∀ s : State, exec .idle s = .next s) ∧ (∀ b : Byte, opField b = 0b00 → decodeHostOp b = .idle) ∧
    ∀ (s : State) (pre idles post : List HostStep), (∀ e ∈ idles, ∃ b, e = .op b ∧ opField b = 0b00) →
      (∃ t, runToEnd (pre ++ post) s = .next t ∧ t.program = []) ∧
      runToEnd (pre ++ idles ++ post) s = runToEnd (pre ++ post) s

/-- 42_host_sequence.md R121 on the hardware's side: that the step runs the reserved operation and does not refuse it is
the model's choice (log entry 3); the check refuses by name a program with it at any position. -/
def Obligations.ReservedOperationChangesNothing : Prop :=
  (∀ s : State, exec .rsvd s = .next s) ∧ (∀ b : Byte, opField b = 0b11 → decodeHostOp b = .rsvd) ∧
    (∀ (b : Byte) (pre rest : List HostStep), opField b = 0b11 → programRefusal pre = none →
      programRefusal (pre ++ .op b :: rest) = some .reservedOperation) ∧
    ∀ (b : Byte) (pre rest : List HostStep), opField b = 0b11 → programRefusal (pre ++ .op b :: rest) ≠ none

/-- The program check, whole (30_encoding.md R62, R64; that it is a check and not the step is log entries 3 and 4): a program
is accepted exactly when every operation in it is within the contract, and the name is that of the first that is not. -/
def Obligations.ProgramCheckLooksEverywhere : Prop :=
  (∀ p : List HostStep, programRefusal p = none ↔ ∀ b, .op b ∈ p → (decodeHostOp b).outOfContract = none) ∧
  (∀ (p : List HostStep) (e : IllFormed), programRefusal p = some e ↔
    ∃ pre b rest, p = pre ++ .op b :: rest ∧ programRefusal pre = none ∧ (decodeHostOp b).outOfContract = some e) ∧
  ∀ b : Byte, (decodeHostOp b).outOfContract = none ↔
    opField b = 0b00 ∨ (opField b = 0b01 ∧ isEnumerated (opAddrField b) = true) ∨ opField b = 0b10

/-- 42_host_sequence.md R122. -/
def Obligations.TransferDeliversAnyResponse : Prop :=
  ∀ (s : State) (r : Word),
    sentCommand s = .ok s.txw ∧ ResponseReceived s r (runStep (.xfer r) s) ∧
    ∃ t, runStep (.xfer r) s = .next t ∧ t.txw = s.txw ∧ [t.byteAt 4, t.byteAt 5, t.byteAt 6, t.byteAt 7] = bytesOf r

/-- 42_host_sequence.md R124, from any start state and for every response. -/
def Obligations.ReadRegisterEndState : Prop :=
  ∀ (s : State) (a : Addr) (r : Word) (rest : List HostStep),
    ∃ t1 t2 t3,
      step { s with program := [.op (frameOpWord a), .xfer r, .op decodeOpWord] ++ rest } = .next t1 ∧
      step t1 = .next t2 ∧ step t2 = .next t3 ∧
      sentCommand t1 = .ok (cmdWord a) ∧
      [t3.byteAt 0, t3.byteAt 1, t3.byteAt 2, t3.byteAt 3] = cmdBytes a ∧
      [t3.byteAt 4, t3.byteAt 5, t3.byteAt 6, t3.byteAt 7] = bytesOf r ∧
      t3.status = r.extractLsb' 29 3 ∧
      t3.value = (if r.extractLsb' 29 3 = 0b000 then 0x0000 else r.extractLsb' 5 16) ∧
      t3.program = rest

/-- 70_reset_and_hazards.md R168. -/
def Obligations.ReframingLosesTheCommand : Prop :=
  ∀ (s : State) (a b : Addr),
    (∃ t u, exec (.frame a) s = .next t ∧ exec (.frame b) t = .next u ∧ sentCommand u = .ok (cmdWord b) ∧
      [u.byteAt 0, u.byteAt 1, u.byteAt 2, u.byteAt 3] = cmdBytes b) ∧
    (∀ rest : List HostStep, keepsSequence .quiet (.op (frameOpWord a) :: .op (frameOpWord b) :: rest) = false) ∧
    ∀ (r : Word) (rest : List HostStep), keepsSequence .quiet (readRegSteps a r ++ rest) = keepsSequence .quiet rest

/-- 70_reset_and_hazards.md R169. -/
def Obligations.DecodingEarlyGivesTheOldResponse : Prop :=
  (∀ (s : State) (a : Addr), ∃ t u, exec (.frame a) s = .next t ∧ exec .decode t = .next u ∧
    u.status = s.rxw.extractLsb' 29 3 ∧
    u.value = (if s.rxw.extractLsb' 29 3 = 0b000 then 0x0000 else s.rxw.extractLsb' 5 16)) ∧
  (∀ a : Addr, ∃ t u, exec (.frame a) State.reset = .next t ∧ exec .decode t = .next u ∧ u.err = true) ∧
  (∀ (s : State) (r : Word), ∃ t, runStep (.xfer r) s = .next t ∧ t.value = s.value ∧ t.status = s.status) ∧
  (∀ (a : Addr) (rest : List HostStep), keepsSequence .quiet (.op (frameOpWord a) :: .op decodeOpWord :: rest) = false) ∧
  ∀ (a : Addr) (r : Word), keepsSequence .quiet [.op (frameOpWord a), .xfer r, .op decodeOpWord] = true

/-- The sequence check, whole. From 42_host_sequence.md R123, R129 and 70_reset_and_hazards.md R168, R169: a program of whole
reads is allowed, whatever stands after a read is judged as if it stood alone, and a transfer with no command framed, a
second `FRAME` before the transfer, a `DECODE` before the transfer, a second transfer in one read and a new `FRAME` before the
`DECODE` are refused. The model's choice (log entry 18): `IDLE` and the reserved operation change nothing wherever they
stand, also inside a read; `RESET` ends a read; a `DECODE` outside a read is allowed; a program may end inside a read. -/
def Obligations.WholeReadsKeepTheSequence : Prop :=
  (∀ (a : Addr) (r : Word) (rest : List HostStep),
    keepsSequence .quiet (readRegSteps a r ++ rest) = keepsSequence .quiet rest) ∧
  (∀ reads : List (Addr × Word), keepsSequence .quiet (reads.flatMap fun x => readRegSteps x.1 x.2) = true) ∧
  (∀ (phase : ReadPhase) (b : Byte) (pre rest : List HostStep), opField b = 0b00 ∨ opField b = 0b11 →
    keepsSequence phase (pre ++ .op b :: rest) = keepsSequence phase (pre ++ rest)) ∧
  (∀ (phase : ReadPhase) (rest : List HostStep), keepsSequence phase (.reset :: rest) = keepsSequence .quiet rest) ∧
  (∀ (r : Word) (rest : List HostStep), keepsSequence .quiet (.xfer r :: rest) = false) ∧
  (∀ (a : Addr) (r q : Word) (rest : List HostStep),
    keepsSequence .quiet (.op (frameOpWord a) :: .xfer r :: .xfer q :: rest) = false) ∧
  (∀ (a b : Addr) (r : Word) (rest : List HostStep),
    keepsSequence .quiet (.op (frameOpWord a) :: .xfer r :: .op (frameOpWord b) :: rest) = false) ∧
  (∀ (a b : Addr) (rest : List HostStep),
    keepsSequence .quiet (.op (frameOpWord a) :: .op (frameOpWord b) :: rest) = false) ∧
  (∀ (a : Addr) (rest : List HostStep), keepsSequence .quiet (.op (frameOpWord a) :: .op decodeOpWord :: rest) = false) ∧
  (∀ rest : List HostStep, keepsSequence .quiet (.op decodeOpWord :: rest) = keepsSequence .quiet rest) ∧
  (∀ (a : Addr) (rest : List HostStep),
    keepsSequence .quiet (.op (frameOpWord a) :: rest) = keepsSequence .framed rest) ∧
  (∀ (r : Word) (rest : List HostStep), keepsSequence .framed (.xfer r :: rest) = keepsSequence .answered rest) ∧
  (∀ rest : List HostStep, keepsSequence .answered (.op decodeOpWord :: rest) = keepsSequence .quiet rest) ∧
  ∀ phase : ReadPhase, keepsSequence phase [] = true

/-- 00_scope.md R7: what `FRAME` builds depends on its operand alone, what `DECODE` gives on the bytes of `RXBUF` alone. -/
def Obligations.ResultsNeverFeedBack : Prop :=
  (∀ (s u : State) (a : Addr), ∃ s' u', exec (.frame a) s = .next s' ∧ exec (.frame a) u = .next u' ∧
    ∀ x, x < Config.rxBase → s'.byteAt x = u'.byteAt x) ∧
  ∀ s u : State, (∀ x, Config.rxBase ≤ x → x < Config.rxBase + Config.frameBytes → s.byteAt x = u.byteAt x) →
    ∃ s' u', exec .decode s = .next s' ∧ exec .decode u = .next u' ∧ s'.value = u'.value ∧ s'.status = u'.status

/-! The step. -/

/-- The step runs the operation the host presents, with that one step taken from its list (10_state.md R26, 30_encoding.md
R60; the list is the model's, log entry 1), and the operation is well formed. -/
def Obligations.StepRunsThePresentedOperation : Prop :=
  ∀ (s : State) (b : Byte) (rest : List HostStep),
    decodeBytes .hostOp8 [b] = .ok (decodeHostOp b) ∧ (decodeHostOp b).wellFormed = true ∧
    step { s with program := .op b :: rest } = exec (decodeHostOp b) { s with program := rest }

/-- With a row's bits in place, the next step runs the instruction those bits decode to (log entries 1, 5, 6, 7, 16). -/
def Obligations.StepRunsTheTableWord : Prop :=
  ∀ (s : State) (nbits w : Nat) (i : Instr), decodeTableWord nbits w = some i →
    i.wellFormed = true ∧
    step (s.withFetchWord nbits w) = exec i { s.withFetchWord nbits w with program := s.program }

/-- 60_exceptions.md R140, over every row of the table: that the reserved operation runs and is not refused is log entry 3,
and that the READ and RESP rows run as the step their rule names is log entries 5 and 6. -/
def Obligations.NoOperationStops : Prop :=
  (∀ (i : Instr) (s : State), ∃ t, exec i s = .next t) ∧ ∀ (e : HostStep) (s : State), ∃ t, runStep e s = .next t

/-- A step never faults, and it is refused exactly when the host's list is exhausted: the model's way to end a run
(42_host_sequence.md R128, log entry 2). -/
def Obligations.StepStopsOnlyAtTheEndOfTheList : Prop :=
  ∀ s : State, (∀ f, step s ≠ .fault f) ∧ (∀ r, step s = .refused r ↔ r = .hostListEnded ∧ s.program = []) ∧
    ∀ (e : HostStep) (rest : List HostStep), s.program = e :: rest → ∃ t, step s = .next t ∧ t.program = rest

/-! Invariants. -/

/-- Reset meets the three invariants: TX and RES (10_state.md R17, R18, with the values of R24), and the canonical form of the
frame-buffer space of 20_memory.md R30, which is the model's form (log entry 10). -/
def Obligations.ResetMeetsTheInvariants : Prop := InvSpace State.reset ∧ InvTx State.reset ∧ InvRes State.reset

/-- Every step keeps the canonical form of the frame-buffer space (log entry 10). -/
def Obligations.StepKeepsTheSpaceCanonical : Prop :=
  ∀ s t : State, InvSpace s → step s = .next t → InvSpace t

/-- 10_state.md R17. -/
def Obligations.StepKeepsCommandInvariant : Prop :=
  InvTx State.reset ∧ (∀ s t : State, InvTx s → step s = .next t → InvTx t) ∧
    ∀ a : Addr, (cmdWord a).getLsbD 31 = true ∧ cmdWord a ≠ 0x00000000

/-- 10_state.md R18. -/
def Obligations.StepKeepsResultInvariant : Prop :=
  InvRes State.reset ∧ (∀ s t : State, InvRes s → step s = .next t → InvRes t) ∧
    ∃ s t : State, exec .decode s = .next t ∧ t.value = 0x0000 ∧ t.status ≠ 0b000

/-! Encodings. -/

/-- 30_encoding.md R61 and R63. -/
def Obligations.HostOperationTable : Prop :=
  (∀ b : Byte,
    (b &&& 0xC0#8 = 0x00 → decodeHostOp b = .idle) ∧ (b &&& 0xC0#8 = 0x40 → decodeHostOp b = .frame (b.extractLsb' 0 6)) ∧
    (b &&& 0xC0#8 = 0x80 → decodeHostOp b = .decode) ∧ (b &&& 0xC0#8 = 0xC0 → decodeHostOp b = .rsvd)) ∧
  encode .idle = [0x00] ∧ encode .decode = [0x80] ∧ encode .rsvd = [0xC0] ∧ (∀ a : Addr, encode (.frame a) = [0x40#8 ||| a.zeroExtend 8]) ∧
  assemble .idle = [.op 0x00] ∧ assemble .decode = [.op 0x80]

/-- What every line of the spec's assembler stands for (30_encoding.md R65, R66); that the lines are structured data and
that a `READREG` line carries the response its transfer draws is the model's form (log entry 17). -/
def Obligations.AssemblerLines : Prop :=
  assemble .idle = [.op 0x00] ∧ assemble .decode = [.op 0x80] ∧ assemble .reset = [.reset] ∧
  (enumeratedRegs.map fun r => assemble (.frame (.named r))) =
    [[.op 0x40], [.op 0x42], [.op 0x44], [.op 0x46], [.op 0x48], [.op 0x4A], [.op 0x4C], [.op 0x4E], [.op 0x50]] ∧
  (∀ a : Addr, assemble (.frame (.number a)) = [.op (0x40#8 ||| a.zeroExtend 8)]) ∧
  (∀ b0 b1 b2 b3 : Byte, ∃ r : Word, assemble (.xfer b0 b1 b2 b3) = [.xfer r] ∧ bytesOf r = [b0, b1, b2, b3]) ∧
  (∀ (a : Addr) (r : Word),
    assemble (.readReg (.number a) r) = [.op (0x40#8 ||| a.zeroExtend 8), .xfer r, .op 0x80]) ∧
  ∀ (x : RegOperand) (r : Word), assemble (.readReg x r) = assemble (.frame x) ++ [.xfer r] ++ assemble .decode

/-- 30_encoding.md R59. -/
def Obligations.EveryResponseIsInOneClass : Prop :=
  ∀ w : Word,
    (w &&& 0xE0000000#32 = 0x00000000 ∧ decodeResp w = .respErr (w.extractLsb' 0 29)) ∨
    (w &&& 0xE0000000#32 ≠ 0x00000000 ∧ w.extractLsb' 29 3 ≠ 0b000 ∧
      decodeResp w = .respData (w.extractLsb' 29 3) (w.extractLsb' 21 8) (w.extractLsb' 5 16) (w.extractLsb' 0 5))

/-- The command decoder accepts exactly the words the block can build, and recovers the address (30_encoding.md R55,
40_command_framer.md R88). Which row it answers is the model's choice (log entry 15): an enumerated command is its own row,
although R87 gives `READ` every address. -/
def Obligations.CommandDecoderAcceptsCommandWords : Prop :=
  (∀ w : Word, (∃ i, decodeCmd w = .ok i) ↔ isCmdWord w = true) ∧
    ∀ a : Addr, decodeCmd (cmdWord a) = .ok (readRow a) ∧ encode (readRow a) = cmdBytes a

/-- Decoding an encoded well-formed instruction gives it back, with every operand at every value (30_encoding.md R51 to R61).
What is well formed is the model's choice (log entry 15): `READ` with an enumerated address and `RESP.DATA` with status `000`
are left out, because their words are those of another row. -/
def Obligations.DecodeOfEncode : Prop :=
  ∀ i : Instr, i.wellFormed = true → decodeBytes i.format (encode i) = .ok i

/-- What decodes is well formed and of the format it was read in, and its encoding gives the bytes back; a host operation
gives back its bytes but for an ignored field (30_encoding.md R63). That an enumerated command decodes to its own row and
status `000` to `RESP.ERR`, so that both are well formed, and that the encoder gives canonical forms, is log entry 15. -/
def Obligations.EncodeOfDecode : Prop :=
  ∀ (f : Format) (bytes : List Byte) (i : Instr), decodeBytes f bytes = .ok i →
    i.wellFormed = true ∧ i.format = f ∧
    match f with
    | .hostOp8 => ∃ b c, bytes = [b] ∧ encode i = [c] ∧ opField c = opField b ∧
        (opField b = 0b01 → c = b)
    | .cmd32 => encode i = bytes
    | .resp32 => encode i = bytes

/-- Words written out from the spec's encodings (95_test_vectors.md V2 to V6) decode to the instruction they stand for. That a
32-bit command word is read as a command, where V4 row 21 reads the same word as a data frame, is log entry 7; which READ row
it is, log entry 15; how a row's bits are given to the decoder, log entry 16. -/
def Obligations.DecodedSampleWords : Prop :=
  decodeTableWord 8 0b00101010 = some .idle ∧ decodeTableWord 8 0b01001100 = some (.frame 0x0C) ∧
  decodeTableWord 8 0b10001100 = some .decode ∧ decodeTableWord 8 0b11111111 = some .rsvd ∧
  decodeTableWord 32 0b10000000000110000000000000000001 = some .readPid ∧
  decodeTableWord 32 0b10000000011111100000000000000001 = some (.read 0x3F) ∧
  decodeTableWord 32 0b00000000000100100011010001010110 = some (.respErr 0x00123456) ∧
  decodeTableWord 32 0b11100000000000000010000000000000 = some (.respData 0b111 0x00 0x0100 0b00000)
end

