-- ==== Sys2Proof/Laws/Memory.lean ====
section
/-! SUPPORT. The frame-buffer space: a byte written is the byte read, every other byte is kept, and every operation keeps
the canonical form. -/

namespace Sys2Proof.Machine

@[simp] theorem readByte_nil (a : Nat) : readByte [] a = unlistedByte := rfl

@[simp] theorem readByte_cons (c : Host.Cell) (m : Memory) (a : Nat) :
    readByte (c :: m) a = if c.1 = a then c.2 else readByte m a := rfl

theorem readByte_eraseByte (m : Memory) (a b : Nat) :
    readByte (eraseByte m a) b = if b = a then unlistedByte else readByte m b := by
  induction m with
  | nil => simp [eraseByte]
  | cons c m ih =>
    by_cases hc : c.1 = a
    · have : eraseByte (c :: m) a = eraseByte m a := by simp [eraseByte, hc]
      rw [this, ih, readByte_cons]
      by_cases hb : b = a
      · simp [hb]
      · have : ¬ c.1 = b := by omega
        simp [hb, this]
    · have : eraseByte (c :: m) a = c :: eraseByte m a := by simp [eraseByte, hc]
      rw [this, readByte_cons, ih, readByte_cons]
      by_cases hb : b = a
      · simp [hb, hc]
      · simp [hb]

theorem readByte_insertByte (m : Memory) (a : Nat) (v : Byte) (hm : ∀ c ∈ m, c.1 ≠ a) (b : Nat) :
    readByte (insertByte m a v) b = if b = a then v else readByte m b := by
  induction m with
  | nil => simp [insertByte, eq_comm]
  | cons c m ih =>
    have hc : c.1 ≠ a := hm c (by simp)
    have ih := ih fun d hd => hm d (by simp [hd])
    unfold insertByte
    split
    · by_cases hb : b = a
      · simp [hb]
      · simp [hb, Ne.symm hb]
    · rw [readByte_cons, ih, readByte_cons]
      by_cases hb : b = a
      · simp [hb, hc]
      · simp [hb]

theorem eraseByte_without (m : Memory) (a : Nat) : ∀ c ∈ eraseByte m a, c.1 ≠ a := by
  intro c hc
  simpa [eraseByte] using (List.mem_filter.mp hc).2

/-- A write of one byte: that byte reads as written, every other byte reads as before. -/
@[simp] theorem readByte_writeByte (m : Memory) (a : Nat) (v : Byte) (b : Nat) :
    readByte (writeByte m a v) b = if b = a then v else readByte m b := by
  unfold writeByte
  split
  · next hv => rw [readByte_eraseByte, hv]
  · rw [readByte_insertByte _ _ _ (eraseByte_without m a), readByte_eraseByte]
    by_cases hb : b = a <;> simp [hb]

/-- A write of a frame: byte `i` of the frame holds byte `i` of the word. -/
theorem readByte_writeFrame_inside (m : Memory) (addr : Nat) (v : Word) (i : Nat) (hi : i < 4) :
    readByte (writeFrame m addr v) (addr + i) = byteOf v i := by
  have : i = 0 ∨ i = 1 ∨ i = 2 ∨ i = 3 := by omega
  rcases this with rfl | rfl | rfl | rfl <;> simp [writeFrame]

/-- A write of a frame keeps every byte outside its four. -/
theorem readByte_writeFrame_outside (m : Memory) (addr : Nat) (v : Word) (b : Nat)
    (hb : ¬ (addr ≤ b ∧ b < addr + 4)) : readByte (writeFrame m addr v) b = readByte m b := by
  have h0 : b ≠ addr := by omega
  have h1 : b ≠ addr + 1 := by omega
  have h2 : b ≠ addr + 2 := by omega
  have h3 : b ≠ addr + 3 := by omega
  simp [writeFrame, h0, h1, h2, h3]

/-! The canonical form. -/

theorem wf_nil : Memory.wf [] := by simp [Memory.wf]

theorem wf_eraseByte (m : Memory) (a : Nat) (h : Memory.wf m) : Memory.wf (eraseByte m a) :=
  ⟨h.1.filter _, fun c hc => h.2 c (List.mem_filter.mp hc).1⟩

theorem mem_insertByte (m : Memory) (a : Nat) (v : Byte) (c : Host.Cell) :
    c ∈ insertByte m a v ↔ c = (a, v) ∨ c ∈ m := by
  induction m with
  | nil => simp [insertByte]
  | cons d m ih =>
    unfold insertByte
    split
    · simp
    · simp only [List.mem_cons, ih]
      tauto

theorem wf_insertByte (m : Memory) (a : Nat) (v : Byte) (h : Memory.wf m) (hm : ∀ c ∈ m, c.1 ≠ a)
    (ha : a < Config.spaceBytes) (hv : v ≠ unlistedByte) : Memory.wf (insertByte m a v) := by
  constructor
  · have hs := h.1
    clear h
    induction m with
    | nil => simp [insertByte]
    | cons c m ih =>
      have hc : c.1 ≠ a := hm c (by simp)
      rw [List.pairwise_cons] at hs
      unfold insertByte
      split
      · next hlt =>
        rw [List.pairwise_cons, List.pairwise_cons]
        refine ⟨fun d hd => ?_, hs⟩
        rcases List.mem_cons.mp hd with rfl | hd
        · exact hlt
        · exact lt_trans hlt (hs.1 d hd)
      · next hge =>
        rw [List.pairwise_cons]
        refine ⟨fun d hd => ?_, ih (fun d hd => hm d (by simp [hd])) hs.2⟩
        rcases (mem_insertByte m a v d).mp hd with rfl | hd
        · change c.1 < a
          change ¬ a < c.1 at hge
          omega
        · exact hs.1 d hd
  · intro c hc
    rcases (mem_insertByte m a v c).mp hc with rfl | hc
    · exact ⟨ha, hv⟩
    · exact h.2 c hc

/-- A write of one byte inside the space keeps the canonical form. -/
theorem wf_writeByte (m : Memory) (a : Nat) (v : Byte) (h : Memory.wf m) (ha : a < Config.spaceBytes) :
    Memory.wf (writeByte m a v) := by
  unfold writeByte
  split
  · exact wf_eraseByte m a h
  · next hv => exact wf_insertByte _ a v (wf_eraseByte m a h) (eraseByte_without m a) ha hv

/-- A write of a frame inside the space keeps the canonical form. -/
theorem wf_writeFrame (m : Memory) (addr : Nat) (v : Word) (h : Memory.wf m) (ha : inSpace addr) :
    Memory.wf (writeFrame m addr v) := by
  have ha : addr + 4 ≤ 8 := ha
  have lt (i : Nat) (hi : i < 4) : addr + i < Config.spaceBytes := by
    show addr + i < 8
    omega
  exact wf_writeByte _ _ _ (wf_writeByte _ _ _ (wf_writeByte _ _ _ (wf_writeByte _ _ _ h (lt 0 (by omega)))
    (lt 1 (by omega))) (lt 2 (by omega))) (lt 3 (by omega))

theorem reset_space_wf : Memory.wf State.reset.frameBuffer := wf_nil

end Sys2Proof.Machine
end

