-- ==== Sys2Proof/Laws/State.lean ====
section
/-! SUPPORT. One lemma per field for each named update of the state, true by unfolding the record once. -/

namespace Sys2Proof.Machine

@[simp] theorem reset_frameBuffer : State.reset.frameBuffer = [] := rfl
@[simp] theorem reset_value : State.reset.value = 0x0000 := rfl
@[simp] theorem reset_status : State.reset.status = 0b000 := rfl
@[simp] theorem reset_program : State.reset.program = [] := rfl

@[simp] theorem latchFrame_frameBuffer (w : Word) (s : State) : (latchFrame w s).frameBuffer = s.frameBuffer := rfl
@[simp] theorem latchFrame_status (w : Word) (s : State) : (latchFrame w s).status = statusField w := rfl
@[simp] theorem latchFrame_value (w : Word) (s : State) :
    (latchFrame w s).value = if statusField w = 0b000 then 0x0000 else valueField w := rfl
@[simp] theorem latchFrame_program (w : Word) (s : State) : (latchFrame w s).program = s.program := rfl

@[simp] theorem resetBlock_frameBuffer (s : State) : (resetBlock s).frameBuffer = [] := rfl
@[simp] theorem resetBlock_value (s : State) : (resetBlock s).value = 0x0000 := rfl
@[simp] theorem resetBlock_status (s : State) : (resetBlock s).status = 0b000 := rfl
@[simp] theorem resetBlock_program (s : State) : (resetBlock s).program = s.program := rfl

@[simp] theorem presentOp_frameBuffer (b : Byte) (s : State) : (presentOp b s).frameBuffer = s.frameBuffer := rfl
@[simp] theorem presentOp_value (b : Byte) (s : State) : (presentOp b s).value = s.value := rfl
@[simp] theorem presentOp_status (b : Byte) (s : State) : (presentOp b s).status = s.status := rfl
@[simp] theorem presentOp_program (b : Byte) (s : State) : (presentOp b s).program = .op b :: s.program := rfl

@[simp] theorem presentResponse_frameBuffer (w : Word) (s : State) :
    (presentResponse w s).frameBuffer = writeFrame s.frameBuffer Config.rxBase w := rfl
@[simp] theorem presentResponse_value (w : Word) (s : State) : (presentResponse w s).value = s.value := rfl
@[simp] theorem presentResponse_status (w : Word) (s : State) : (presentResponse w s).status = s.status := rfl
@[simp] theorem presentResponse_program (w : Word) (s : State) :
    (presentResponse w s).program = .op decodeOpWord :: s.program := rfl

/-! The outputs of a state given field by field: the views of the frame buffers see the space alone. -/

@[simp] theorem mk_byteAt (m : Memory) (v : RegValue) (st : StatusField) (p : List HostStep) (a : Nat) :
    State.byteAt ⟨m, v, st, p⟩ a = readByte m a := rfl
@[simp] theorem mk_txw (m : Memory) (v : RegValue) (st : StatusField) (p : List HostStep) :
    State.txw ⟨m, v, st, p⟩ = readFrame m Config.txBase := rfl
@[simp] theorem mk_rxw (m : Memory) (v : RegValue) (st : StatusField) (p : List HostStep) :
    State.rxw ⟨m, v, st, p⟩ = readFrame m Config.rxBase := rfl
@[simp] theorem mk_err (m : Memory) (v : RegValue) (st : StatusField) (p : List HostStep) :
    State.err ⟨m, v, st, p⟩ = errOf st := rfl

/-! The outputs after a latch: the frame buffers keep their bytes. -/

@[simp] theorem latchFrame_byteAt (w : Word) (s : State) (a : Nat) : (latchFrame w s).byteAt a = s.byteAt a := rfl
@[simp] theorem latchFrame_txw (w : Word) (s : State) : (latchFrame w s).txw = s.txw := rfl
@[simp] theorem latchFrame_rxw (w : Word) (s : State) : (latchFrame w s).rxw = s.rxw := rfl

end Sys2Proof.Machine
end

