-- ==== Sys2Proof/Laws/Ops.lean ====
section
/-! SUPPORT. What each shared operation can do, said once: the provers cite these and do not unfold the operations. -/

namespace Sys2Proof.Machine

theorem inSpace_txBase : inSpace Config.txBase := by decide

theorem inSpace_rxBase : inSpace Config.rxBase := by decide

/-- `memWrite` answers a next state exactly when the frame lies in the space, and then changes the space alone. -/
theorem memWrite_next_iff (addr : Nat) (v : Word) (s t : State) :
    memWrite addr v s = .next t ↔ inSpace addr ∧ t = { s with frameBuffer := writeFrame s.frameBuffer addr v } := by
  unfold memWrite
  split
  · next h => simp only [h, true_and, Host.Outcome.next.injEq, eq_comm]
  · next h => simp [h]

/-- `memRead` answers exactly when the frame lies in the space. -/
theorem memRead_ok_iff (addr : Nat) (s : State) (w : Word) :
    memRead addr s = .ok w ↔ inSpace addr ∧ w = readFrame s.frameBuffer addr := by
  unfold memRead
  split
  · next h => simp only [h, true_and, Except.ok.injEq, eq_comm]
  · next h => simp [h]

theorem memRead_txBase (s : State) : memRead Config.txBase s = .ok s.txw :=
  (memRead_ok_iff _ _ _).mpr ⟨inSpace_txBase, rfl⟩

theorem memRead_rxBase (s : State) : memRead Config.rxBase s = .ok s.rxw :=
  (memRead_ok_iff _ _ _).mpr ⟨inSpace_rxBase, rfl⟩

/-- What the framer's operation answers, in every state. -/
theorem issueCommand_eq (a : Addr) (s : State) :
    issueCommand a s = .next { s with frameBuffer := writeFrame s.frameBuffer Config.txBase (cmdWord a) } :=
  (memWrite_next_iff _ _ _ _).mpr ⟨inSpace_txBase, rfl⟩

/-- What `DECODE` answers, in every state. -/
theorem execDecode_eq (s : State) : execDecode s = .next (latchFrame s.rxw s) := by
  simp only [execDecode, memRead_rxBase]

/-- What the environment's transfer answers, in every state. -/
theorem transfer_eq (r : Word) (s : State) :
    transfer r s = .next { s with frameBuffer := writeFrame s.frameBuffer Config.rxBase r } := by
  simp only [transfer, sentCommand, memRead_txBase]
  exact (memWrite_next_iff _ _ _ _).mpr ⟨inSpace_rxBase, rfl⟩

theorem fetchStep_cons (s : State) (e : HostStep) (rest : List HostStep) (h : s.program = e :: rest) :
    fetchStep s = some (e, { s with program := rest }) := by
  simp only [fetchStep, h]

theorem fetchStep_nil (s : State) (h : s.program = []) : fetchStep s = none := by
  simp only [fetchStep, h]

/-- The three things an instruction can do to the state. -/
theorem exec_cases (i : Instr) (s : State) :
    (∃ a, exec i s = issueCommand a s) ∨ (∃ w, exec i s = .next (latchFrame w s)) ∨ exec i s = .next s := by
  cases i with
  | read a => exact .inl ⟨a, rfl⟩
  | readRate => exact .inl ⟨regAddr .rate, rfl⟩
  | readTemp => exact .inl ⟨regAddr .temp, rfl⟩
  | readLocst => exact .inl ⟨regAddr .locst, rfl⟩
  | readHicst => exact .inl ⟨regAddr .hicst, rfl⟩
  | readQuad => exact .inl ⟨regAddr .quad, rfl⟩
  | readFault => exact .inl ⟨regAddr .fault, rfl⟩
  | readPid => exact .inl ⟨regAddr .pid, rfl⟩
  | readSnh => exact .inl ⟨regAddr .snh, rfl⟩
  | readSnl => exact .inl ⟨regAddr .snl, rfl⟩
  | respErr ignored => exact .inr (.inl ⟨_, rfl⟩)
  | respData status ignoredHi value ignoredLo => exact .inr (.inl ⟨_, rfl⟩)
  | idle => exact .inr (.inr rfl)
  | frame a => exact .inl ⟨a, rfl⟩
  | decode => exact .inr (.inl ⟨_, execDecode_eq s⟩)
  | rsvd => exact .inr (.inr rfl)

/-- Everything a step of the host's program can do to the state: a command stored, a frame latched, nothing, a response
received, or the block reset. -/
theorem runStep_cases (e : HostStep) (s t : State) (h : runStep e s = .next t) :
    (∃ a, t = { s with frameBuffer := writeFrame s.frameBuffer Config.txBase (cmdWord a) }) ∨
    (∃ w, t = latchFrame w s) ∨ t = s ∨
    (∃ r, t = { s with frameBuffer := writeFrame s.frameBuffer Config.rxBase r }) ∨ t = resetBlock s := by
  cases e with
  | op b =>
    rw [runStep] at h
    rcases exec_cases (decodeHostOp b) s with ⟨a, hi⟩ | ⟨w, hi⟩ | hi
    · rw [hi, issueCommand_eq] at h
      cases h
      exact .inl ⟨a, rfl⟩
    · rw [hi] at h
      cases h
      exact .inr (.inl ⟨w, rfl⟩)
    · rw [hi] at h
      cases h
      exact .inr (.inr (.inl rfl))
  | xfer r =>
    rw [runStep, transfer_eq] at h
    cases h
    exact .inr (.inr (.inr (.inl ⟨r, rfl⟩)))
  | reset =>
    cases h
    exact .inr (.inr (.inr (.inr rfl)))

/-- No step reads or writes the host's list (10_state.md R20). -/
theorem runStep_program (e : HostStep) (s t : State) (h : runStep e s = .next t) : t.program = s.program := by
  rcases runStep_cases e s t h with ⟨a, rfl⟩ | ⟨w, rfl⟩ | rfl | ⟨r, rfl⟩ | rfl <;> rfl

theorem step_cons (s : State) (e : HostStep) (rest : List HostStep) (h : s.program = e :: rest) :
    step s = runStep e { s with program := rest } := by
  simp only [step, fetchStep_cons s e rest h]

theorem step_nil (s : State) (h : s.program = []) : step s = .refused .hostListEnded := by
  simp only [step, fetchStep_nil s h]

/-- A step that answers a next state ran the first step of the host's list. -/
theorem step_next (s t : State) (h : step s = .next t) :
    ∃ e rest, s.program = e :: rest ∧ runStep e { s with program := rest } = .next t := by
  cases hp : s.program with
  | nil => rw [step_nil s hp] at h; cases h
  | cons e rest => exact ⟨e, rest, rfl, (step_cons s e rest hp).symm.trans h⟩

theorem runToEnd_nil (s : State) : runToEnd [] s = .next { s with program := [] } := rfl

/-- A machine whose first step answers a next state runs on from there. -/
theorem core_run_succ (M : Host.Core) (k : Nat) (s t : M.State) (h : M.step s = .next t) :
    M.run (k + 1) s = M.run k t := by
  simp only [Host.Core.run, h]

/-- A run is its first step and then the run of the rest. -/
theorem runToEnd_cons (e : HostStep) (p : List HostStep) (s t : State)
    (h : runStep e { s with program := p } = .next t) : runToEnd (e :: p) s = runToEnd p t := by
  have hp : t.program = p := runStep_program e _ t h
  have ht : { t with program := p } = t := by
    cases t
    cases hp
    rfl
  unfold runToEnd
  rw [ht]
  exact core_run_succ Sys2Proof.core p.length { s with program := e :: p } t h

end Sys2Proof.Machine
end

