-- ==== Sys2Proof/Laws/PerInstr.lean ====
section
/-! SUPPORT. A statement about every instruction, one lemma per constructor: its encoding has the length of its format
(spec 30_encoding.md R50). -/

namespace Sys2Proof.Laws

/-- The encoding has the fixed length of the instruction's format. -/
def EncodeLength.Statement (i : Instr) : Prop := (encode i).length = formatBytes i.format

theorem EncodeLength.read (a : Addr) : EncodeLength.Statement (.read a) := rfl
theorem EncodeLength.readRate : EncodeLength.Statement .readRate := rfl
theorem EncodeLength.readTemp : EncodeLength.Statement .readTemp := rfl
theorem EncodeLength.readLocst : EncodeLength.Statement .readLocst := rfl
theorem EncodeLength.readHicst : EncodeLength.Statement .readHicst := rfl
theorem EncodeLength.readQuad : EncodeLength.Statement .readQuad := rfl
theorem EncodeLength.readFault : EncodeLength.Statement .readFault := rfl
theorem EncodeLength.readPid : EncodeLength.Statement .readPid := rfl
theorem EncodeLength.readSnh : EncodeLength.Statement .readSnh := rfl
theorem EncodeLength.readSnl : EncodeLength.Statement .readSnl := rfl
theorem EncodeLength.respErr (ignored : BitVec 29) : EncodeLength.Statement (.respErr ignored) := rfl
theorem EncodeLength.respData (status : StatusField) (ignoredHi : Byte) (value : RegValue) (ignoredLo : BitVec 5) :
    EncodeLength.Statement (.respData status ignoredHi value ignoredLo) := rfl
theorem EncodeLength.idle : EncodeLength.Statement .idle := rfl
theorem EncodeLength.frame (a : Addr) : EncodeLength.Statement (.frame a) := rfl
theorem EncodeLength.decode : EncodeLength.Statement .decode := rfl
theorem EncodeLength.rsvd : EncodeLength.Statement .rsvd := rfl

end Sys2Proof.Laws
end

