-- ==== Sys2Proof/Tests/Slice0.lean ====
section
/-! SUPPORT. Tests: words from the spec's encodings, one-step vectors of spec/95_test_vectors.md, the smoke test of
each check, and a witness for every statement that has hypotheses. Expected values come from the spec, never from the model. -/

namespace Sys2Proof.Tests
open Sys2Proof.Machine

/-- A state written as the spec's vectors write it: `TXBUF | RXBUF | VALUE | STATUS` (frame words big-endian). -/
def vec (tx rx : Word) (value : RegValue) (status : StatusField) : State where
  frameBuffer := writeFrame (writeFrame [] 0 tx) 4 rx
  value := value
  status := status
  program := []

/-! Decoding: bits written out from the spec's encodings (V6; R78 to R87; V4 rows 3, 8). -/

theorem test_decode_idle : decodeTableWord 8 0b00000000 = some .idle := by decide
theorem test_decode_idle_ignores_addr : decodeTableWord 8 0b00101010 = some .idle := by decide
theorem test_decode_frame : decodeTableWord 8 0b01001100 = some (.frame 0x0C) := by decide
theorem test_decode_decode : decodeTableWord 8 0b10000000 = some .decode := by decide
theorem test_decode_decode_ignores_addr : decodeTableWord 8 0b10001100 = some .decode := by decide
theorem test_decode_rsvd : decodeTableWord 8 0b11000000 = some .rsvd := by decide
theorem test_decode_read : decodeTableWord 32 0b10000000000000100000000000000000 = some (.read 0x01) := by decide
theorem test_decode_readRate : decodeTableWord 32 0b10000000000000000000000000000001 = some .readRate := by decide
theorem test_decode_readTemp : decodeTableWord 32 0b10000000000001000000000000000000 = some .readTemp := by decide
theorem test_decode_readLocst : decodeTableWord 32 0b10000000000010000000000000000000 = some .readLocst := by decide
theorem test_decode_readHicst : decodeTableWord 32 0b10000000000011000000000000000001 = some .readHicst := by decide
theorem test_decode_readQuad : decodeTableWord 32 0b10000000000100000000000000000000 = some .readQuad := by decide
theorem test_decode_readFault : decodeTableWord 32 0b10000000000101000000000000000001 = some .readFault := by decide
theorem test_decode_readPid : decodeTableWord 32 0b10000000000110000000000000000001 = some .readPid := by decide
theorem test_decode_readSnh : decodeTableWord 32 0b10000000000111000000000000000000 = some .readSnh := by decide
theorem test_decode_readSnl : decodeTableWord 32 0b10000000001000000000000000000000 = some .readSnl := by decide
theorem test_decode_respErr :
    decodeTableWord 32 0b00000000000100100011010001010110 = some (.respErr 0x00123456) := by decide
theorem test_decode_respData :
    decodeTableWord 32 0b11100000000000000010000000000000 = some (.respData 0b111 0x00 0x0100 0b00000) := by decide

/-- V6: words that are no command, each refused by its name. -/
theorem test_not_commands :
    decodeCmd 0x80180000 = .error .oddParity ∧ decodeCmd 0x00180000 = .error .readFlagClear ∧
    decodeCmd 0x80980000 = .error .addressBeyondOperand ∧ decodeCmd 0x80180002 = .error .reservedBitsSet ∧
    decodeCmd 0x81180000 = .error .reservedBitsSet ∧ decodeCmd 0x00000000 = .error .readFlagClear := by decide

/-- V4 row 21: a command word read on the response side is a data frame. -/
theorem test_command_fed_back :
    decodeBytes .resp32 [0x80, 0x18, 0x00, 0x01] = .ok (.respData 0b100 0x00 0xC000 0b00001) := by decide

theorem test_wrong_length : decodeBytes .cmd32 [0x80, 0x18] = .error (.wrongLength 2) := by decide

/-! Each check refuses an ill-formed term. -/

theorem test_illFormed_read : (Instr.read 0x0C).illFormed = some (.readHasItsOwnRow 0x0C) := by decide
theorem test_illFormed_respData : (Instr.respData 0 0 0 0).illFormed = some .dataFrameWithErrorStatus := by decide
theorem test_outOfContract_frame : (Instr.frame 0x01).outOfContract = some (.addressNotEnumerated 0x01) := by decide
theorem test_outOfContract_read : (Instr.read 0x3F).outOfContract = some (.addressNotEnumerated 0x3F) := by decide
theorem test_outOfContract_rsvd : Instr.rsvd.outOfContract = some .reservedOperation := by decide
/-- P4 is the spec's refusal test for a model's contract check; without its step 3 it is accepted. -/
theorem test_programRefusal_P4 :
    programRefusal [.op 0x80, .op 0x00, .op 0xC0, .op 0x50, .op 0x80, .reset] = some .reservedOperation ∧
    programRefusal [.op 0x80, .op 0x00, .op 0x50, .op 0x80, .reset] = none := by decide
/-- P3 keeps the sequence of reads, P5 does not. -/
theorem test_keepsSequence :
    keepsSequence .quiet [.op 0x42, .xfer 0xE0002000, .op 0x80, .op 0x00, .op 0x4A, .xfer 0x1FFFFFFF, .op 0x80] = true ∧
    keepsSequence .quiet [.op 0x40, .op 0x4E, .xfer 0x20000020] = false := by decide

/-! Vectors: V1, V2, V4. -/

theorem test_calcParity :
    calcParity 0 = false ∧ calcParity 2 = true ∧ calcParity 7 = true ∧ calcParity 0x80000000 = true ∧
    calcParity 0x807E0000 = true ∧ calcParity 0x55555555 = false ∧ calcParity 0xFFFFFFFE = true ∧
    calcParity 0xFFFFFFFF = false := by decide

theorem test_cmdWord :
    cmdWord 0x0B = 0x80160000 ∧ cmdWord 0x1F = 0x803E0000 ∧ cmdWord 0x20 = 0x80400000 ∧ cmdWord 0x3F = 0x807E0001 := by
  decide

theorem test_valueOf :
    valueOf 0x40 0x15 0x79 0xA0 = 0xABCD ∧ valueOf 0x5F 0xE0 0x00 0x1F = 0x0000 ∧ valueOf 0x60 0x0A 0xAA 0xA0 = 0x5555 ∧
    valueOf 0xA0 0x1F 0xE0 0x00 = 0xFF00 ∧ valueOf 0x1F 0xFF 0xFF 0xFF = 0x0000 := by decide

/-! One step of each instruction (V5, P1, V4). -/

theorem test_idle :
    exec .idle (vec 0x80180001 0x401579A0 0xABCD 0b010) = .next (vec 0x80180001 0x401579A0 0xABCD 0b010) := by rfl
theorem test_rsvd :
    exec .rsvd (vec 0x80180001 0x401579A0 0xABCD 0b010) = .next (vec 0x80180001 0x401579A0 0xABCD 0b010) := by rfl
theorem test_frame :
    exec (.frame 0x00) (vec 0x80180001 0x401579A0 0xABCD 0b010) = .next (vec 0x80000001 0x401579A0 0xABCD 0b010) := by rfl
theorem test_decode :
    exec .decode (vec 0x80180001 0x401579A0 0x0000 0b000) = .next (vec 0x80180001 0x401579A0 0xABCD 0b010) := by rfl
theorem test_decode_error :
    exec .decode (vec 0x80140001 0x1FFFFFFF 0x0100 0b111) = .next (vec 0x80140001 0x1FFFFFFF 0x0000 0b000) := by rfl
theorem test_read : exec (.read 0x3F) (vec 0 0 0 0) = .next (vec 0x807E0001 0 0 0) := by rfl
theorem test_readRate : exec .readRate (vec 0 0 0 0) = .next (vec 0x80000001 0 0 0) := by rfl
theorem test_readTemp : exec .readTemp (vec 0 0 0 0) = .next (vec 0x80040000 0 0 0) := by rfl
theorem test_readLocst : exec .readLocst (vec 0 0 0 0) = .next (vec 0x80080000 0 0 0) := by rfl
theorem test_readHicst : exec .readHicst (vec 0 0 0 0) = .next (vec 0x800C0001 0 0 0) := by rfl
theorem test_readQuad : exec .readQuad (vec 0 0 0 0) = .next (vec 0x80100000 0 0 0) := by rfl
theorem test_readFault : exec .readFault (vec 0 0 0 0) = .next (vec 0x80140001 0 0 0) := by rfl
theorem test_readPid : exec .readPid (vec 0 0 0 0) = .next (vec 0x80180001 0 0 0) := by rfl
theorem test_readSnh : exec .readSnh (vec 0 0 0 0) = .next (vec 0x801C0000 0 0 0) := by rfl
theorem test_readSnl : exec .readSnl (vec 0 0 0 0) = .next (vec 0x80200000 0 0 0) := by rfl
theorem test_respErr :
    exec (.respErr 0x00123456) (vec 0 0x00123456 0xABCD 0b010) = .next (vec 0 0x00123456 0x0000 0b000) := by rfl
theorem test_respData :
    exec (.respData 0b111 0x00 0x0100 0b00000) (vec 0 0xE0002000 0 0) = .next (vec 0 0xE0002000 0x0100 0b111) := by rfl

/-- V5 row 10: a transfer replaces `RXBUF` alone. -/
theorem test_xfer :
    runStep (.xfer 0x00000000) (vec 0x80200000 0x401579A0 0xABCD 0b010) = .next (vec 0x80200000 0x00000000 0xABCD 0b010) := by
  rfl
/-- V5 row 6. -/
theorem test_reset : runStep .reset (vec 0x80180001 0x401579A0 0xABCD 0b010) = .next State.reset := by rfl

/-- The first step after reset runs the row whose bits are in place, for one row of each format. -/
theorem test_first_step :
    step (State.reset.withFetchWord 8 0x4C) = exec (.frame 0x0C) State.reset ∧
    step (State.reset.withFetchWord 32 0x80180001) = exec .readPid State.reset ∧
    step (State.reset.withFetchWord 32 0xE0002000) = .next (vec 0 0xE0002000 0x0100 0b111) := ⟨rfl, rfl, rfl⟩

/-! Witnesses: a concrete state and operands that meet all the hypotheses of a statement. -/

/-- `WritersOfEachElement`: each of the three clauses, at a step that changes the element. -/
theorem witness_WritersOfEachElement :
    runStep (.op 0x40) (vec 0 0 0 0) = .next (vec 0x80000001 0 0 0) ∧ (vec 0x80000001 0 0 0).byteAt 3 ≠ (vec 0 0 0 0).byteAt 3 ∧
    runStep (.xfer 0x20000000) (vec 0 0 0 0) = .next (vec 0 0x20000000 0 0) ∧
    (vec 0 0x20000000 0 0).byteAt 4 ≠ (vec 0 0 0 0).byteAt 4 ∧
    runStep (.op 0x80) (vec 0 0x20000000 0 0) = .next (vec 0 0x20000000 0 0b001) ∧
    (vec 0 0x20000000 0 0b001).status ≠ (vec 0 0x20000000 0 0).status :=
  ⟨rfl, by decide, rfl, by decide, rfl, by decide⟩

/-- `MemWriteThenMemRead`: both clauses where they meet, the last address inside and the first outside. -/
theorem witness_MemWriteThenMemRead : 4 + 4 ≤ 8 ∧ ¬ 5 + 4 ≤ 8 := by decide

theorem witness_CanonicalSpacesAreEqualData :
    Memory.wf (vec 0x80180001 0x401579A0 0 0).frameBuffer ∧
    ∀ a, readByte (vec 0x80180001 0x401579A0 0 0).frameBuffer a = readByte (vec 0x80180001 0x401579A0 0 0).frameBuffer a :=
  ⟨by decide, fun _ => rfl⟩

/-- `ParityLoopOfTheSpec` and `ParityIsXorOfAllBits`. -/
theorem witness_ParityLoopOfTheSpec :
    (0x80000000 : Word) ≠ 0 ∧ popcount (0xFFFFFFFF : Word) = 32 ∧ 32 ≤ popcount (0xFFFFFFFF : Word) := by decide

/-- `FrameBuildsCommand`, `DecodeLatchesResponse`, `IdleChangesNothing`, `WholeReadsKeepTheSequence`: an operation word for each
value of `op`, at the ends of its range. -/
theorem witness_opField :
    opField 0x00 = 0b00 ∧ opField 0x3F = 0b00 ∧ opField 0x40 = 0b01 ∧ opField 0x7F = 0b01 ∧ opField 0x80 = 0b10 ∧
    opField 0xBF = 0b10 ∧ opField 0xC0 = 0b11 ∧ opField 0xFF = 0b11 := by decide

/-- With a program in front that the check accepts. -/
theorem witness_NonEnumeratedFrameIsBuiltAndNamed :
    isEnumerated 0x01 = false ∧ isEnumerated 0x3F = false ∧ programRefusal [.op 0x4C, .xfer 0, .op 0x80, .reset] = none := by
  decide

/-- `ReservedOperationChangesNothing`: the reserved operation at both ends of its range, after a program the check accepts. -/
theorem witness_ReservedOperationChangesNothing :
    opField 0xC0 = 0b11 ∧ opField 0xFF = 0b11 ∧ programRefusal [.op 0x00, .op 0x50] = none := by decide

/-- `IdleChangesNothing`: a list of operations that are all `IDLE`, at both ends of its range. -/
theorem witness_IdleChangesNothing :
    ∀ e ∈ [HostStep.op 0x00, HostStep.op 0x3F], ∃ b, e = .op b ∧ opField b = 0b00 := by
  simp only [List.mem_cons, List.not_mem_nil, or_false, forall_eq_or_imp, forall_eq]
  exact ⟨⟨0x00, rfl, by decide⟩, ⟨0x3F, rfl, by decide⟩⟩

/-- `ErrorFramesDecodeToZero` and `IdentityTestAfterErrorFrame`: the largest error frame. -/
theorem witness_ErrorFrame : (vec 0 0x1FFFFFFF 0 0).rxw.extractLsb' 29 3 = 0b000 := by decide

/-- `DataFramesDecodeToTheirField`, `HighByteOfDecodedValue` and `RightShiftKindIrrelevant`: the smallest data frame. -/
theorem witness_DataFrame : (vec 0 0x20000000 0 0).rxw.extractLsb' 29 3 ≠ 0b000 := by decide

theorem witness_ValueFromBytes :
    (0x20 : Byte).extractLsb' 5 3 ≠ 0b000 ∧ frameError 0x20 = frameError 0xFF ∧
    (0x1F : Byte).extractLsb' 0 5 = (0xFF : Byte).extractLsb' 0 5 ∧
    (0xE0 : Byte).extractLsb' 5 3 = (0xFF : Byte).extractLsb' 5 3 := by decide

theorem witness_ResultsNeverFeedBack :
    ∀ x, Config.rxBase ≤ x → x < Config.rxBase + Config.frameBytes →
      (vec 0x80180001 0x401579A0 0xABCD 0b010).byteAt x = (vec 0 0x401579A0 0 0).byteAt x := by
  intro x h1 h2
  have : x = 4 ∨ x = 5 ∨ x = 6 ∨ x = 7 := by
    simp only [Config.rxBase, Config.frameBytes] at h1 h2
    omega
  rcases this with rfl | rfl | rfl | rfl <;> decide

/-- `StepRunsTheTableWord`: one row of each format. -/
theorem witness_StepRunsTheTableWord :
    decodeTableWord 8 0x40 = some (.frame 0x00) ∧ decodeTableWord 32 0x80000001 = some .readRate ∧
    decodeTableWord 32 0x20000000 = some (.respData 0b001 0 0 0) ∧ decodeTableWord 32 0x00000000 = some (.respErr 0) := by
  decide

/-- `StepStopsOnlyAtTheEndOfTheList`: a list with a step left. -/
theorem witness_StepStopsOnlyAtTheEndOfTheList : (State.reset.withFetchWord 8 0x00).program = .op 0x00 :: [] := by rfl

/-- The invariants' statements: a state that is not the reset state, meets all three, and steps on. -/
theorem witness_Invariants :
    InvSpace ((vec 0x80180001 0x401579A0 0xABCD 0b010).withFetchWord 8 0x80) ∧
    InvTx ((vec 0x80180001 0x401579A0 0xABCD 0b010).withFetchWord 8 0x80) ∧
    InvRes ((vec 0x80180001 0x401579A0 0xABCD 0b010).withFetchWord 8 0x80) ∧
    step ((vec 0x80180001 0x401579A0 0xABCD 0b010).withFetchWord 8 0x80) =
      .next (vec 0x80180001 0x401579A0 0xABCD 0b010) :=
  ⟨by unfold InvSpace; decide, .inr ⟨0x0C, by decide⟩, by unfold InvRes; decide, rfl⟩

/-- `HostOperationTable`: an operation word for each mask value. -/
theorem witness_HostOperationTable :
    (0x3F : Byte) &&& 0xC0#8 = 0x00 ∧ (0x40 : Byte) &&& 0xC0#8 = 0x40 ∧ (0xBF : Byte) &&& 0xC0#8 = 0x80 ∧
    (0xFF : Byte) &&& 0xC0#8 = 0xC0 := by decide

/-- `DecodeOfEncode`: a well-formed term of each row that has operands. -/
theorem witness_DecodeOfEncode :
    (Instr.read 0x01).wellFormed = true ∧ (Instr.respErr 0x1FFFFFFF).wellFormed = true ∧
    (Instr.respData 0b001 0xFF 0xFFFF 0b11111).wellFormed = true ∧ (Instr.frame 0x3F).wellFormed = true := by decide

/-- `EncodeOfDecode`: bytes of each format that decode. -/
theorem witness_EncodeOfDecode :
    decodeBytes .hostOp8 [0x3F] = .ok .idle ∧ decodeBytes .cmd32 [0x80, 0x00, 0x00, 0x01] = .ok .readRate ∧
    decodeBytes .resp32 [0x1F, 0xFF, 0xFF, 0xFF] = .ok (.respErr 0x1FFFFFFF) := by decide

end Sys2Proof.Tests
end

/-! Proofs of the family 00_scope.md: the byte order of a frame (R5) and the purity of the two units (R7). -/

namespace Sys2Proof.Machine

/-! Byte order in numbers (R5): the bytes of a frame are the digits of its word in base 256, byte 0 the leading one. -/

/-- No bit of a byte is lost when a frame's layout shifts it into place. -/
theorem toNat_zeroExtend_shiftLeft (b : Byte) (n : Nat) (hn : n ≤ 24) :
    (b.zeroExtend 32 <<< n).toNat = b.toNat <<< n := by
  have hlt : b.toNat <<< n < 2 ^ 32 :=
    calc b.toNat <<< n = b.toNat * 2 ^ n := Nat.shiftLeft_eq _ _
      _ < 2 ^ 8 * 2 ^ n := by gcongr; exact b.isLt
      _ ≤ 2 ^ 8 * 2 ^ 24 := by gcongr; decide
  rw [BitVec.toNat_shiftLeft, BitVec.toNat_setWidth_of_le (by decide), Nat.mod_eq_of_lt hlt]

/-- The bytes of the layout do not overlap, so joining them is adding them. -/
theorem toNat_be32 (b0 b1 b2 b3 : Byte) :
    (be32 b0 b1 b2 b3).toNat = b0.toNat * 2 ^ 24 + b1.toNat * 2 ^ 16 + b2.toNat * 2 ^ 8 + b3.toNat := by
  have h1 := b1.isLt
  have h2 := b2.isLt
  have h3 := b3.isLt
  rw [be32, BitVec.toNat_or, BitVec.toNat_or, BitVec.toNat_or, toNat_zeroExtend_shiftLeft b0 24 (by decide),
    toNat_zeroExtend_shiftLeft b1 16 (by decide), toNat_zeroExtend_shiftLeft b2 8 (by decide),
    BitVec.toNat_setWidth_of_le (by decide), Nat.or_assoc, Nat.or_assoc,
    ← Nat.shiftLeft_add_eq_or_of_lt h3 b2.toNat, ← Nat.shiftLeft_add_eq_or_of_lt (by omega) b1.toNat,
    ← Nat.shiftLeft_add_eq_or_of_lt (by omega) b0.toNat]
  omega

theorem toNat_byteOf (w : Word) (i : Nat) : (byteOf w i).toNat = w.toNat / 2 ^ (24 - 8 * i) % 2 ^ 8 := by
  rw [byteOf, BitVec.extractLsb'_toNat, Nat.shiftRight_eq_div_pow]

@[simp] theorem be32_byteOf (w : Word) : be32 (byteOf w 0) (byteOf w 1) (byteOf w 2) (byteOf w 3) = w := by
  apply BitVec.eq_of_toNat_eq
  simp only [toNat_be32, toNat_byteOf]
  omega

@[simp] theorem bytesOf_be32 (b0 b1 b2 b3 : Byte) : bytesOf (be32 b0 b1 b2 b3) = [b0, b1, b2, b3] := by
  have h0 := b0.isLt
  have h1 := b1.isLt
  have h2 := b2.isLt
  have h3 := b3.isLt
  simp only [bytesOf, List.cons.injEq, and_true, ← BitVec.toNat_inj, toNat_byteOf, toNat_be32]
  omega

/-- The slices of R5, one for each byte of the frame. -/
theorem bytesOf_eq_slices (w : Word) :
    bytesOf w = [w.extractLsb' 24 8, w.extractLsb' 16 8, w.extractLsb' 8 8, w.extractLsb' 0 8] := rfl

/-- Settles O5: the layouts are those of R5, and each undoes the other. -/
theorem bigEndianFrames : Obligations.BigEndianFrames :=
  ⟨fun _ _ _ _ => rfl, bytesOf_eq_slices, be32_byteOf, bytesOf_be32⟩

/-! What the two units read (R7). -/

/-- `FRAME` is the framer's operation, in every state. -/
theorem exec_frame (a : Addr) (s : State) :
    exec (.frame a) s = .next { s with frameBuffer := writeFrame s.frameBuffer Config.txBase (cmdWord a) } :=
  issueCommand_eq a s

/-- `DECODE` is the decoder's operation, in every state. -/
theorem exec_decode (s : State) : exec .decode s = .next (latchFrame s.rxw s) := execDecode_eq s

/-- A command frame holds the command word's bytes, whatever the space held before. -/
theorem readByte_writeFrame_txBase (m : Memory) (w : Word) (x : Nat) (hx : x < Config.rxBase) :
    readByte (writeFrame m Config.txBase w) x = byteOf w x := by
  have h := readByte_writeFrame_inside m Config.txBase w x hx
  rwa [show Config.txBase + x = x from Nat.zero_add x] at h

/-- The response word is a function of the four bytes of `RXBUF`. -/
theorem rxw_eq_of_byteAt_eq (s u : State)
    (h : ∀ x, Config.rxBase ≤ x → x < Config.rxBase + Config.frameBytes → s.byteAt x = u.byteAt x) : s.rxw = u.rxw := by
  have hbyte (i : Nat) (hi : i < 4) :
      readByte s.frameBuffer (Config.rxBase + i) = readByte u.frameBuffer (Config.rxBase + i) :=
    h _ (Nat.le_add_right _ _) (Nat.add_lt_add_left hi _)
  have h0 := hbyte 0 (by decide)
  have h1 := hbyte 1 (by decide)
  have h2 := hbyte 2 (by decide)
  have h3 := hbyte 3 (by decide)
  rw [Nat.add_zero] at h0
  simp only [State.rxw, readFrame, h0, h1, h2, h3]

/-- Settles O37: `FRAME` stores the bytes of its operand's command word, `DECODE` latches the word of `RXBUF`. -/
theorem resultsNeverFeedBack : Obligations.ResultsNeverFeedBack := by
  constructor
  · intro s u a
    refine ⟨_, _, exec_frame a s, exec_frame a u, fun x hx => ?_⟩
    rw [mk_byteAt, mk_byteAt, readByte_writeFrame_txBase _ _ x hx, readByte_writeFrame_txBase _ _ x hx]
  · intro s u hbytes
    have hrxw : s.rxw = u.rxw := rxw_eq_of_byteAt_eq s u hbytes
    refine ⟨_, _, exec_decode s, exec_decode u, ?_, ?_⟩
    · rw [latchFrame_value, latchFrame_value, hrxw]
    · rw [latchFrame_status, latchFrame_status, hrxw]

end Sys2Proof.Machine

/-! Proofs of the family 10_state.md: the reset state (R24, R25), the writers of each element (R10 to R12) and the
invariants TX and RES (R17, R18). -/

namespace Sys2Proof.Machine

/-! A frame read after a frame written, and the frame of an unwritten space. -/

/-- A frame reads as it was written (R31). -/
@[simp] theorem readFrame_writeFrame_same (m : Memory) (addr : Nat) (w : Word) :
    readFrame (writeFrame m addr w) addr = w := by
  have h0 := readByte_writeFrame_inside m addr w 0 (by decide)
  have h1 := readByte_writeFrame_inside m addr w 1 (by decide)
  have h2 := readByte_writeFrame_inside m addr w 2 (by decide)
  have h3 := readByte_writeFrame_inside m addr w 3 (by decide)
  rw [Nat.add_zero] at h0
  rw [readFrame, h0, h1, h2, h3, be32_byteOf]

/-- A frame apart from the one written reads as before (R31). -/
theorem readFrame_writeFrame_apart (m : Memory) (addr addr' : Nat) (w : Word)
    (h : addr' + Config.frameBytes ≤ addr ∨ addr + Config.frameBytes ≤ addr') :
    readFrame (writeFrame m addr w) addr' = readFrame m addr' := by
  have hbyte (i : Nat) (hi : i < 4) : readByte (writeFrame m addr w) (addr' + i) = readByte m (addr' + i) :=
    readByte_writeFrame_outside m addr w _ (by unfold Config.frameBytes at h; omega)
  have h0 := hbyte 0 (by decide)
  rw [Nat.add_zero] at h0
  rw [readFrame, h0, hbyte 1 (by decide), hbyte 2 (by decide), hbyte 3 (by decide), readFrame]

/-- Storing a response keeps the command frame: the two buffers do not overlap (R30). -/
@[simp] theorem readFrame_txBase_writeFrame_rxBase (m : Memory) (w : Word) :
    readFrame (writeFrame m Config.rxBase w) Config.txBase = readFrame m Config.txBase :=
  readFrame_writeFrame_apart m _ _ w (.inl (by decide))

/-- An empty list of cells is the space of zeros (log entry 10). -/
@[simp] theorem readFrame_nil (addr : Nat) : readFrame [] addr = 0x00000000 := by
  rw [readFrame, readByte_nil, readByte_nil, readByte_nil, readByte_nil]
  decide

/-! The reset state (R24, R25). -/

@[simp] theorem reset_byteAt (a : Nat) : State.reset.byteAt a = 0x00 := readByte_nil a
@[simp] theorem reset_txw : State.reset.txw = 0x00000000 := readFrame_nil Config.txBase
@[simp] theorem reset_rxw : State.reset.rxw = 0x00000000 := readFrame_nil Config.rxBase
@[simp] theorem resetBlock_txw (s : State) : (resetBlock s).txw = 0x00000000 := readFrame_nil Config.txBase

/-- Latching the all-zero frame gives the reset results. -/
theorem latchFrame_zero_reset : latchFrame 0x00000000 State.reset = State.reset := by decide

/-- Settles O1: the reset space is the space of zeros, and the outputs are read off it. -/
theorem resetStateValues : Obligations.ResetStateValues :=
  ⟨fun a _ => reset_byteAt a, reset_value, reset_status, reset_txw, reset_rxw, rfl⟩

/-- Settles O2: the decoder's functions evaluated at the all-zero frame, and `DECODE` run on the `RXBUF` reset leaves. -/
theorem resetIsDecodeOfZeroFrame : Obligations.ResetIsDecodeOfZeroFrame := by
  have hdecode : exec .decode State.reset = .next State.reset := by
    rw [exec_decode, reset_rxw, latchFrame_zero_reset]
  exact ⟨by decide, by decide, by decide, by decide, by decide, by decide, hdecode⟩

/-! The writers of each element (R10 to R12). -/

/-- The only operation that stores a command has `op = 01`, the only one that latches a frame has `op = 10`; every other
operation keeps the whole state. -/
theorem runStep_op_cases (b : Byte) (s t : State) (h : runStep (.op b) s = .next t) :
    (opField b = 0b01 ∧
      t = { s with frameBuffer := writeFrame s.frameBuffer Config.txBase (cmdWord (opAddrField b)) }) ∨
    (opField b = 0b10 ∧ t = latchFrame s.rxw s) ∨ t = s := by
  rw [runStep, decodeHostOp] at h
  split at h
  case isTrue =>
    cases h
    exact .inr (.inr rfl)
  case isFalse =>
    split at h
    case isTrue hframe =>
      rw [exec_frame] at h
      cases h
      exact .inl ⟨hframe, rfl⟩
    case isFalse =>
      split at h
      case isTrue hdecode =>
        rw [exec_decode] at h
        cases h
        exact .inr (.inl ⟨hdecode, rfl⟩)
      case isFalse =>
        cases h
        exact .inr (.inr rfl)

/-- A command stored changes no byte of `RXBUF`. -/
theorem readByte_writeFrame_txBase_of_ge (m : Memory) (w : Word) (a : Nat) (ha : Config.rxBase ≤ a) :
    readByte (writeFrame m Config.txBase w) a = readByte m a :=
  readByte_writeFrame_outside m _ w a fun hin => absurd hin.2 (Nat.not_lt.mpr ha)

/-- A response stored changes no byte of `TXBUF`. -/
theorem readByte_writeFrame_rxBase_of_lt (m : Memory) (w : Word) (a : Nat) (ha : a < Config.rxBase) :
    readByte (writeFrame m Config.rxBase w) a = readByte m a :=
  readByte_writeFrame_outside m _ w a fun hin => absurd hin.1 (Nat.not_le.mpr ha)

/-- Settles O4: a step that is not the writer of an element keeps it. -/
theorem writersOfEachElement : Obligations.WritersOfEachElement := by
  intro e s t h
  cases e with
  | op b =>
    rcases runStep_op_cases b s t h with ⟨hframe, rfl⟩ | ⟨hdecode, rfl⟩ | rfl
    · refine ⟨fun a _ _ => .inr ⟨b, rfl, hframe⟩, fun a ha hne => ?_, fun hne => ?_⟩
      · exact absurd (readByte_writeFrame_txBase_of_ge _ _ a ha) hne
      · simp at hne
    · exact ⟨fun a _ hne => absurd rfl hne, fun a _ hne => absurd rfl hne, fun _ => .inr ⟨b, rfl, hdecode⟩⟩
    · refine ⟨fun a _ hne => absurd rfl hne, fun a _ hne => absurd rfl hne, fun hne => ?_⟩
      simp at hne
  | xfer r =>
    rw [runStep, transfer_eq] at h
    cases h
    refine ⟨fun a ha hne => ?_, fun a _ _ => .inr ⟨r, rfl⟩, fun hne => ?_⟩
    · exact absurd (readByte_writeFrame_rxBase_of_lt _ _ a ha) hne
    · simp at hne
  | reset => exact ⟨fun _ _ _ => .inl rfl, fun _ _ _ => .inl rfl, fun _ => .inl rfl⟩

/-! The invariants TX and RES (R17, R18). -/

/-- A property that does not look at the host's list is kept by every step when each of the four updates of the block
keeps it: a command stored, a frame latched, a response received, the block reset. -/
theorem step_keeps (P : State → Prop)
    (hprogram : ∀ s p, P s → P { s with program := p })
    (hcommand : ∀ s a, P s → P { s with frameBuffer := writeFrame s.frameBuffer Config.txBase (cmdWord a) })
    (hlatch : ∀ s w, P s → P (latchFrame w s))
    (hresponse : ∀ s r, P s → P { s with frameBuffer := writeFrame s.frameBuffer Config.rxBase r })
    (hreset : ∀ s, P s → P (resetBlock s)) (s t : State) (hs : P s) (h : step s = .next t) : P t := by
  obtain ⟨e, rest, -, hrun⟩ := step_next s t h
  have hu := hprogram s rest hs
  rcases runStep_cases e _ t hrun with ⟨a, rfl⟩ | ⟨w, rfl⟩ | rfl | ⟨r, rfl⟩ | rfl
  · exact hcommand _ a hu
  · exact hlatch _ w hu
  · exact hu
  · exact hresponse _ r hu
  · exact hreset _ hu

theorem invTx_reset : InvTx State.reset := .inl reset_txw

theorem invRes_reset : InvRes State.reset := fun _ => reset_value

/-- Invariant TX speaks of `TXW` alone. -/
theorem invTx_of_txw_eq {s t : State} (h : t.txw = s.txw) (hs : InvTx s) : InvTx t := by
  rwa [InvTx, h]

theorem step_keeps_invTx (s t : State) : InvTx s → step s = .next t → InvTx t :=
  step_keeps InvTx
    (hprogram := fun _ _ => invTx_of_txw_eq rfl)
    (hcommand := fun s a _ => .inr ⟨a, readFrame_writeFrame_same s.frameBuffer Config.txBase (cmdWord a)⟩)
    (hlatch := fun s w => invTx_of_txw_eq (latchFrame_txw w s))
    (hresponse := fun s r => invTx_of_txw_eq (readFrame_txBase_writeFrame_rxBase s.frameBuffer r))
    (hreset := fun s _ => .inl (resetBlock_txw s)) s t

/-- The latch sets `STATUS` and `VALUE` together, so it establishes invariant RES whatever stood there before (R105). -/
theorem invRes_latchFrame (w : Word) (s : State) : InvRes (latchFrame w s) := by
  intro hstatus
  rw [latchFrame_status] at hstatus
  rw [latchFrame_value, if_pos hstatus]

theorem step_keeps_invRes (s t : State) : InvRes s → step s = .next t → InvRes t :=
  step_keeps InvRes
    (hprogram := fun _ _ hs => hs)
    (hcommand := fun _ _ hs => hs)
    (hlatch := fun s w _ => invRes_latchFrame w s)
    (hresponse := fun _ _ hs => hs)
    (hreset := fun s _ _ => resetBlock_value s) s t

/-- Settles O42: the empty space is canonical, and `TXW` and `VALUE` are zero. -/
theorem resetMeetsTheInvariants : Obligations.ResetMeetsTheInvariants := ⟨reset_space_wf, invTx_reset, invRes_reset⟩

/-- The read flag of the payload: no address reaches bit 31 (R72). -/
theorem cmdPayload_readFlag (a : Addr) : (cmdPayload a).getLsbD 31 = true := by simp [cmdPayload]

/-- The parity bit leaves the read flag set (R73). -/
theorem cmdWord_readFlag (a : Addr) : (cmdWord a).getLsbD 31 = true := by
  unfold cmdWord
  split
  · rw [BitVec.getLsbD_or, cmdPayload_readFlag, Bool.true_or]
  · exact cmdPayload_readFlag a

theorem cmdWord_ne_zero (a : Addr) : cmdWord a ≠ 0x00000000 := by
  intro h
  have hflag := cmdWord_readFlag a
  rw [h] at hflag
  exact absurd hflag (by decide)

/-- Settles O44: `FRAME` puts a command word into `TXBUF`, `RESET` zero, and no other step writes it. -/
theorem stepKeepsCommandInvariant : Obligations.StepKeepsCommandInvariant :=
  ⟨invTx_reset, step_keeps_invTx, fun a => ⟨cmdWord_readFlag a, cmdWord_ne_zero a⟩⟩

/-- The state in which the response `w` has arrived and nothing else has happened since reset. -/
def responseAfterReset (w : Word) : State :=
  { State.reset with frameBuffer := writeFrame State.reset.frameBuffer Config.rxBase w }

@[simp] theorem responseAfterReset_rxw (w : Word) : (responseAfterReset w).rxw = w :=
  readFrame_writeFrame_same State.reset.frameBuffer Config.rxBase w

/-- The converse of invariant RES fails: the data frame `0x20000000` has status `001` and the value zero (R18). -/
theorem decode_valueZero_statusNonzero :
    ∃ s t : State, exec .decode s = .next t ∧ t.value = 0x0000 ∧ t.status ≠ 0b000 := by
  refine ⟨responseAfterReset 0x20000000, _, exec_decode _, ?_, ?_⟩
  · rw [latchFrame_value, responseAfterReset_rxw]
    decide
  · rw [latchFrame_status, responseAfterReset_rxw]
    decide

/-- Settles O45: `DECODE` latches the value of an error frame as zero, `RESET` clears it, and no other step writes the
results; the converse fails at a data frame whose value field is zero. -/
theorem stepKeepsResultInvariant : Obligations.StepKeepsResultInvariant :=
  ⟨invRes_reset, step_keeps_invRes, decode_valueZero_statusNonzero⟩

end Sys2Proof.Machine

/-! Proofs of the family 20_memory.md: the memory primitives (R30, R31), the canonical form of the frame-buffer space (log
entry 10), the byte view of the frames (R35) and the register address map (R37). -/

namespace Sys2Proof.Machine

/-! The canonical form of the space (log entry 10). -/

/-- Settles O43: each of the two frames that a step can store lies inside the space, and reset leaves the empty space. -/
theorem stepKeepsTheSpaceCanonical : Obligations.StepKeepsTheSpaceCanonical :=
  step_keeps InvSpace
    (hprogram := fun _ _ hs => hs)
    (hcommand := fun s a hs => wf_writeFrame s.frameBuffer Config.txBase (cmdWord a) hs inSpace_txBase)
    (hlatch := fun _ _ hs => hs)
    (hresponse := fun s r hs => wf_writeFrame s.frameBuffer Config.rxBase r hs inSpace_rxBase)
    (hreset := fun _ _ => wf_nil)

/-- In the canonical form the listed cells are exactly the bytes that an address not listed would not read as. -/
theorem mem_iff_of_wf (m : Memory) (h : Memory.wf m) (c : Host.Cell) :
    c ∈ m ↔ readByte m c.1 = c.2 ∧ c.2 ≠ unlistedByte := by
  obtain ⟨hrising, hlisted⟩ := h
  induction m with
  | nil => simp [eq_comm]
  | cons d m ih =>
    obtain ⟨hfirst, htail⟩ := List.pairwise_cons.mp hrising
    obtain ⟨hd, hlisted⟩ := List.forall_mem_cons.mp hlisted
    have ih := ih htail hlisted
    rw [List.mem_cons, readByte_cons]
    by_cases heq : d.1 = c.1
    · have hnot : c ∉ m := fun hc => absurd heq (Nat.ne_of_lt (hfirst c hc))
      rw [if_pos heq]
      constructor
      · rintro (rfl | hc)
        · exact ⟨rfl, hd.2⟩
        · exact absurd hc hnot
      · exact fun hval => .inl (Prod.ext heq.symm hval.1.symm)
    · have hne : c ≠ d := fun hcd => heq (congrArg Prod.fst hcd.symm)
      rw [if_neg heq, or_iff_right hne, ih]

/-- Settles O8: spaces that read alike list the same cells, and a strictly rising list is fixed by its cells. -/
theorem canonicalSpacesAreEqualData : Obligations.CanonicalSpacesAreEqualData := by
  intro m n hm hn hread
  have hmem (c : Host.Cell) : c ∈ m ↔ c ∈ n := by
    rw [mem_iff_of_wf m hm, mem_iff_of_wf n hn, hread]
  have hirrefl : Std.Irrefl fun c d : Host.Cell => c.1 < d.1 := ⟨fun c => Nat.lt_irrefl c.1⟩
  have hantisymm : Std.Antisymm fun c d : Host.Cell => c.1 < d.1 := ⟨fun _ _ h h' => absurd h' (Nat.lt_asymm h)⟩
  exact hm.1.eq_of_mem_iff hn.1 hmem

/-! The memory primitives (R31). -/

/-- Outside the space `MemWrite` stores nothing (log entry 11). -/
theorem memWrite_of_not_inSpace (addr : Nat) (v : Word) (s : State) (h : ¬ inSpace addr) :
    memWrite addr v s = .fault (.outsideFrameBuffer addr) := by
  rw [memWrite, if_neg h]

/-- Outside the space `MemRead` gives no word (log entry 11). -/
theorem memRead_of_not_inSpace (addr : Nat) (s : State) (h : ¬ inSpace addr) :
    memRead addr s = .error (.outsideFrameBuffer addr) := by
  rw [memRead, if_neg h]

/-- Settles O7: inside the space the reading rules of a stored frame, outside it the fault of each primitive. -/
theorem memWriteThenMemRead : Obligations.MemWriteThenMemRead := by
  intro addr v s
  split
  case isTrue h =>
    have hin : inSpace addr := h
    refine ⟨_, (memWrite_next_iff addr v s _).mpr ⟨hin, rfl⟩, ?_, ?_, ?_, rfl, rfl, rfl⟩
    · exact (memRead_ok_iff _ _ _).mpr ⟨hin, (readFrame_writeFrame_same s.frameBuffer addr v).symm⟩
    · exact readByte_writeFrame_inside s.frameBuffer addr v
    · exact readByte_writeFrame_outside s.frameBuffer addr v
  case isFalse h => exact ⟨memWrite_of_not_inSpace addr v s h, memRead_of_not_inSpace addr s h⟩

/-! The byte view of the frames (R35). -/

/-- Byte `i` of a frame read is the byte that stands at its address. -/
theorem byteOf_readFrame (m : Memory) (addr i : Nat) (hi : i < 4) :
    byteOf (readFrame m addr) i = readByte m (addr + i) := by
  have hbytes := bytesOf_be32 (readByte m addr) (readByte m (addr + 1)) (readByte m (addr + 2)) (readByte m (addr + 3))
  simp only [bytesOf, List.cons.injEq, and_true] at hbytes
  obtain ⟨h0, h1, h2, h3⟩ := hbytes
  match i, hi with
  | 0, _ => exact h0
  | 1, _ => exact h1
  | 2, _ => exact h2
  | 3, _ => exact h3

theorem byteAt_eq_byteOf_txw (s : State) (i : Nat) (hi : i < 4) : s.byteAt i = byteOf s.txw i := by
  have h := byteOf_readFrame s.frameBuffer Config.txBase i hi
  rw [show Config.txBase + i = i from Nat.zero_add i] at h
  exact h.symm

theorem byteAt_eq_byteOf_rxw (s : State) (i : Nat) (hi : i < 4) : s.byteAt (4 + i) = byteOf s.rxw i :=
  (byteOf_readFrame s.frameBuffer Config.rxBase i hi).symm

/-- Bit `j` of byte `i` stands in the word where the byte's slice begins, `j` bits up. -/
theorem getLsbD_byteOf (w : Word) (i j : Nat) (hj : j < 8) : (byteOf w i).getLsbD j = w.getLsbD (24 - 8 * i + j) := by
  simp [byteOf, hj]

/-- A field that lies inside byte `i` is the word's field at the byte's slice. -/
theorem extractLsb'_byteOf (w : Word) (i lo len : Nat) (h : lo + len ≤ 8) :
    (byteOf w i).extractLsb' lo len = w.extractLsb' (24 - 8 * i + lo) len := by
  ext j hj
  rw [BitVec.getElem_extractLsb', BitVec.getElem_extractLsb', getLsbD_byteOf w i (lo + j) (by omega), Nat.add_assoc]

/-- The value field crosses two byte borders: the low five bits of byte 1, byte 2, the top three bits of byte 3. -/
theorem valueSlice_eq_append (w : Word) :
    w.extractLsb' 5 16 = (byteOf w 1).extractLsb' 0 5 ++ byteOf w 2 ++ (byteOf w 3).extractLsb' 5 3 := by
  have hupper : w.extractLsb' 16 5 ++ w.extractLsb' 8 8 = w.extractLsb' 8 13 :=
    BitVec.extractLsb'_append_extractLsb'_eq_extractLsb' rfl
  have hvalue : w.extractLsb' 8 13 ++ w.extractLsb' 5 3 = w.extractLsb' 5 16 :=
    BitVec.extractLsb'_append_extractLsb'_eq_extractLsb' rfl
  rw [extractLsb'_byteOf w 1 0 5 (by decide), extractLsb'_byteOf w 3 5 3 (by decide), ← hvalue, ← hupper]
  rfl

/-- Settles O6: each byte is a slice of its word, so a field of the word is that field of the byte it lies in. -/
theorem byteViewOfFrames : Obligations.ByteViewOfFrames := by
  intro s
  have htx := byteAt_eq_byteOf_txw s
  have hrx := byteAt_eq_byteOf_rxw s
  refine ⟨fun i hi => ⟨htx i hi, hrx i hi⟩, ?_, ?_, ?_, ?_, ?_⟩
  · rw [htx 0 (by decide), getLsbD_byteOf s.txw 0 7 (by decide)]
  · rw [htx 3 (by decide), getLsbD_byteOf s.txw 3 0 (by decide)]
  · rw [htx 1 (by decide), extractLsb'_byteOf s.txw 1 1 7 (by decide)]
  · rw [hrx 0 (by decide), extractLsb'_byteOf s.rxw 0 5 3 (by decide)]
  · rw [hrx 1 (by decide), hrx 2 (by decide), hrx 3 (by decide), valueSlice_eq_append]

/-! The register address map (R37). -/

/-- An address is enumerated exactly when it stands in the table's address column. -/
theorem isEnumerated_iff_mem (a : Addr) : isEnumerated a = true ↔ a ∈ enumeratedRegs.map regAddr := by
  simp only [isEnumerated, List.any_eq_true, beq_iff_eq, List.mem_map]

/-- The enumerated set leaves no register of the model out. -/
theorem mem_enumeratedRegs (r : SensorReg) : r ∈ enumeratedRegs := by
  cases r <;> decide

/-- Settles O15: the address column is the nine addresses, and the table's rows are read off the model's. -/
theorem sensorRegisterMap : Obligations.SensorRegisterMap :=
  ⟨isEnumerated_iff_mem, rfl, mem_enumeratedRegs⟩

end Sys2Proof.Machine

/-! Proofs of the family 30_encoding.md: the host operation word (R60 to R66), the program check (R62, R64), the command
word (R51 to R55), the response frame (R56 to R59), and the round trips of the three formats. -/

namespace Sys2Proof.Machine

/-! The host operation word (R60, R61, R63). -/

/-- An operation word is its two fields. -/
theorem opField_append_opAddrField (b : Byte) : opField b ++ opAddrField b = b :=
  (BitVec.extractLsb'_append_extractLsb'_eq_extractLsb' rfl).trans BitVec.extractLsb'_eq_self

@[simp] theorem opField_append (op : BitVec 2) (a : Addr) : opField (op ++ a) = op := BitVec.extractLsb'_append_eq_left

@[simp] theorem opAddrField_append (op : BitVec 2) (a : Addr) : opAddrField (op ++ a) = a :=
  BitVec.extractLsb'_append_eq_right

/-- The mask of R61 keeps the `op` field alone. -/
theorem and_opMask (b : Byte) : b &&& 0xC0#8 = opField b ++ 0#6 := by
  calc b &&& 0xC0#8 = (opField b ++ opAddrField b) &&& (0b11#2 ++ 0#6) := by rw [opField_append_opAddrField]; rfl
    _ = (opField b &&& BitVec.allOnes 2) ++ (opAddrField b &&& 0#6) := BitVec.and_append
    _ = opField b ++ 0#6 := by rw [BitVec.and_allOnes, BitVec.and_zero]

/-- Match and mask of R61 select one value of `op`. -/
theorem and_opMask_eq_iff (b : Byte) (op : BitVec 2) : b &&& 0xC0#8 = op ++ 0#6 ↔ opField b = op := by
  rw [and_opMask, BitVec.append_left_inj]

theorem opField_cases (b : Byte) : opField b = 0b00 ∨ opField b = 0b01 ∨ opField b = 0b10 ∨ opField b = 0b11 := by
  generalize opField b = op
  revert op
  decide

theorem decodeHostOp_idle {b : Byte} (h : opField b = 0b00) : decodeHostOp b = .idle := by
  simp [decodeHostOp, h]

theorem decodeHostOp_frame {b : Byte} (h : opField b = 0b01) : decodeHostOp b = .frame (opAddrField b) := by
  simp [decodeHostOp, h]

theorem decodeHostOp_decode {b : Byte} (h : opField b = 0b10) : decodeHostOp b = .decode := by
  simp [decodeHostOp, h]

theorem decodeHostOp_rsvd {b : Byte} (h : opField b = 0b11) : decodeHostOp b = .rsvd := by
  simp [decodeHostOp, h]

@[simp] theorem opField_frameOpWord (a : Addr) : opField (frameOpWord a) = 0b01 := opField_append 0b01 a

@[simp] theorem opAddrField_frameOpWord (a : Addr) : opAddrField (frameOpWord a) = a := opAddrField_append 0b01 a

@[simp] theorem decodeHostOp_frameOpWord (a : Addr) : decodeHostOp (frameOpWord a) = .frame a := by
  rw [decodeHostOp_frame (opField_frameOpWord a), opAddrField_frameOpWord]

/-- The operation word of `FRAME a` as the assembler's table writes it (R65). -/
theorem frameOpWord_eq_or (a : Addr) : frameOpWord a = 0x40#8 ||| a.zeroExtend 8 := by
  rw [frameOpWord, BitVec.append_def, BitVec.setWidth'_eq]
  rfl

/-- Settles O46: match and mask select the value of `op`, and the encoder's operation words are the canonical ones. -/
theorem hostOperationTable : Obligations.HostOperationTable := by
  refine ⟨fun b => ⟨fun h => ?_, fun h => ?_, fun h => ?_, fun h => ?_⟩, rfl, rfl, rfl, fun a => ?_, rfl, rfl⟩
  · exact decodeHostOp_idle ((and_opMask_eq_iff b 0b00).mp h)
  · exact decodeHostOp_frame ((and_opMask_eq_iff b 0b01).mp h)
  · exact decodeHostOp_decode ((and_opMask_eq_iff b 0b10).mp h)
  · exact decodeHostOp_rsvd ((and_opMask_eq_iff b 0b11).mp h)
  · rw [encode, frameOpWord_eq_or]

/-- No operation word stands for an ill-formed term: the two ill-formed rows are of the other formats. -/
theorem decodeHostOp_wellFormed (b : Byte) : (decodeHostOp b).wellFormed = true := by
  rcases opField_cases b with h | h | h | h
  · rw [decodeHostOp_idle h]; rfl
  · rw [decodeHostOp_frame h]; rfl
  · rw [decodeHostOp_decode h]; rfl
  · rw [decodeHostOp_rsvd h]; rfl

/-- Settles O38: the step takes the operation off the host's list and runs what its byte decodes to. -/
theorem stepRunsThePresentedOperation : Obligations.StepRunsThePresentedOperation := fun s b rest =>
  ⟨rfl, decodeHostOp_wellFormed b, step_cons { s with program := .op b :: rest } (.op b) rest rfl⟩

/-! The assembler's lines (R65, R66). -/

/-- A `FRAME` line of any operand, as the table writes its operation word. -/
theorem assemble_frame (x : RegOperand) : assemble (.frame x) = [.op (0x40#8 ||| (operandAddr x).zeroExtend 8)] := by
  rw [assemble, frameOpWord_eq_or]

/-- `READREG` is its three steps (R66). -/
theorem assemble_readReg (x : RegOperand) (r : Word) :
    assemble (.readReg x r) = assemble (.frame x) ++ [.xfer r] ++ assemble .decode := rfl

/-- Settles O54: each line is the operation word or the step of its row of the table. -/
theorem assemblerLines : Obligations.AssemblerLines := by
  refine ⟨rfl, rfl, rfl, rfl, fun a => assemble_frame (.number a), fun b0 b1 b2 b3 => ?_, fun a r => ?_, assemble_readReg⟩
  · exact ⟨be32 b0 b1 b2 b3, rfl, bytesOf_be32 b0 b1 b2 b3⟩
  · rw [assemble_readReg, assemble_frame]
    rfl

/-! The program check (R62, R64; log entries 3 and 4). -/

/-- What the program check says of one step of the host. -/
def stepRefusal : HostStep → Option IllFormed
  | .op b => (decodeHostOp b).outOfContract
  | .xfer _ => none
  | .reset => none

theorem stepRefusal_eq_some_iff (e : HostStep) (why : IllFormed) :
    stepRefusal e = some why ↔ ∃ b, e = .op b ∧ (decodeHostOp b).outOfContract = some why := by
  cases e <;> simp [stepRefusal]

theorem forall_mem_stepRefusal_eq_none_iff (p : List HostStep) :
    (∀ e ∈ p, stepRefusal e = none) ↔ ∀ b, .op b ∈ p → (decodeHostOp b).outOfContract = none := by
  constructor
  · exact fun h b hb => h _ hb
  · intro h e he
    cases e with
    | op b => exact h b he
    | xfer r => rfl
    | reset => rfl

/-- The program check is a search for the first step that it refuses. -/
theorem programRefusal_eq_findSome? (p : List HostStep) : programRefusal p = p.findSome? stepRefusal := by
  induction p with
  | nil => rfl
  | cons e p ih =>
    rw [List.findSome?_cons, ← ih]
    cases e with
    | op b => cases h : (decodeHostOp b).outOfContract <;> simp [programRefusal, stepRefusal, h]
    | xfer r => rfl
    | reset => rfl

theorem programRefusal_eq_none_iff (p : List HostStep) :
    programRefusal p = none ↔ ∀ e ∈ p, stepRefusal e = none := by
  rw [programRefusal_eq_findSome?, List.findSome?_eq_none_iff]

/-- The first refusal of a program is that of its first part, where that has one. -/
theorem programRefusal_append (p q : List HostStep) :
    programRefusal (p ++ q) = (programRefusal p).or (programRefusal q) := by
  simp only [programRefusal_eq_findSome?, List.findSome?_append]

/-- An operation outside the contract at the head of a program names the refusal. -/
theorem programRefusal_op_cons {b : Byte} {why : IllFormed} (h : (decodeHostOp b).outOfContract = some why)
    (rest : List HostStep) : programRefusal (.op b :: rest) = some why := by
  rw [programRefusal, h]

/-- An operation outside the contract refuses the program at any position, by its name after an accepted part. -/
theorem programRefusal_append_op {b : Byte} {why : IllFormed} (h : (decodeHostOp b).outOfContract = some why)
    (pre rest : List HostStep) : programRefusal (pre ++ .op b :: rest) = (programRefusal pre).or (some why) := by
  rw [programRefusal_append, programRefusal_op_cons h]

theorem programRefusal_append_op_ne_none {b : Byte} {why : IllFormed} (h : (decodeHostOp b).outOfContract = some why)
    (pre rest : List HostStep) : programRefusal (pre ++ .op b :: rest) ≠ none := by
  rw [programRefusal_append_op h]
  cases programRefusal pre <;> simp

theorem outOfContract_frame (a : Addr) :
    (Instr.frame a).outOfContract = if isEnumerated a then none else some (.addressNotEnumerated a) := rfl

/-- The operation words within the contract: `IDLE`, `FRAME` of an enumerated address, `DECODE`. -/
theorem outOfContract_decodeHostOp_eq_none_iff (b : Byte) :
    (decodeHostOp b).outOfContract = none ↔
      opField b = 0b00 ∨ (opField b = 0b01 ∧ isEnumerated (opAddrField b) = true) ∨ opField b = 0b10 := by
  rcases opField_cases b with h | h | h | h
  · simp [decodeHostOp_idle h, h, Instr.outOfContract]
  · simp [decodeHostOp_frame h, h, outOfContract_frame]
  · simp [decodeHostOp_decode h, h, Instr.outOfContract]
  · simp [decodeHostOp_rsvd h, h, Instr.outOfContract]

/-- Settles O52: the check is a search over the host's steps, and it passes over everything but an operation. -/
theorem programCheckLooksEverywhere : Obligations.ProgramCheckLooksEverywhere := by
  refine ⟨fun p => ?_, fun p why => ⟨fun h => ?_, ?_⟩, outOfContract_decodeHostOp_eq_none_iff⟩
  · rw [programRefusal_eq_none_iff, forall_mem_stepRefusal_eq_none_iff]
  · rw [programRefusal_eq_findSome?, List.findSome?_eq_some_iff] at h
    obtain ⟨pre, e, rest, rfl, he, hpre⟩ := h
    obtain ⟨b, rfl, hb⟩ := (stepRefusal_eq_some_iff e why).mp he
    exact ⟨pre, b, rest, rfl, (programRefusal_eq_none_iff pre).mpr hpre, hb⟩
  · rintro ⟨pre, b, rest, rfl, hpre, hb⟩
    rw [programRefusal_append_op hb, hpre, Option.none_or]

/-- What `FRAME` leaves, for every address (R75). -/
theorem commandIssued_exec_frame (a : Addr) (s : State) : CommandIssued s (cmdWord a) (exec (.frame a) s) :=
  ⟨_, exec_frame a s, readFrame_writeFrame_same s.frameBuffer Config.txBase (cmdWord a),
    readByte_writeFrame_outside s.frameBuffer Config.txBase (cmdWord a), rfl, rfl, rfl⟩

/-- Settles O20: the step does not look at the map, and the check names the address wherever the `FRAME` stands. -/
theorem nonEnumeratedFrameIsBuiltAndNamed : Obligations.NonEnumeratedFrameIsBuiltAndNamed := by
  intro a ha
  have hcontract : (Instr.frame a).outOfContract = some (.addressNotEnumerated a) := by
    rw [outOfContract_frame, ha]
    rfl
  have hword : (decodeHostOp (frameOpWord a)).outOfContract = some (.addressNotEnumerated a) := by
    rw [decodeHostOp_frameOpWord, hcontract]
  refine ⟨commandIssued_exec_frame a, hcontract, fun pre rest hpre => ?_, programRefusal_append_op_ne_none hword⟩
  rw [programRefusal_append_op hword, hpre, Option.none_or]

end Sys2Proof.Machine

namespace Sys2Proof.Machine

/-! The number of 1 bits, and the parity loop (R6, R70): what the parity bit of R53 is computed from. -/

/-- The library's population count is the spec's. -/
theorem popcount_eq_toNat_cpop {n : Nat} (v : BitVec n) : popcount v = v.cpop.toNat := by
  have hrange (k : Nat) : (List.range k).countP (fun i => v.getLsbD i) = v.cpopNatRec k 0 := by
    induction k with
    | zero => rfl
    | succ k ih =>
      rw [List.range_succ, List.countP_append, List.countP_singleton, ih, BitVec.cpopNatRec_succ, Nat.zero_add,
        BitVec.cpopNatRec_eq (v.getLsbD k).toNat, Bool.toNat, Bool.cond_eq_ite]
  rw [popcount, hrange, BitVec.toNat_cpop]

@[simp] theorem popcount_append {m n : Nat} (x : BitVec m) (y : BitVec n) :
    popcount (x ++ y) = popcount x + popcount y := by
  simp only [popcount_eq_toNat_cpop, BitVec.toNat_cpop_append]

@[simp] theorem popcount_concat {n : Nat} (x : BitVec n) (b : Bool) : popcount (x.concat b) = b.toNat + popcount x := by
  simp only [popcount_eq_toNat_cpop, BitVec.toNat_cpop_concat]

@[simp] theorem popcount_zero (n : Nat) : popcount (0#n) = 0 := by
  rw [popcount_eq_toNat_cpop, BitVec.cpop_zero, BitVec.toNat_zero]

@[simp] theorem popcount_ofBool (b : Bool) : popcount (BitVec.ofBool b) = b.toNat := by
  cases b <;> rfl

theorem popcount_le {n : Nat} (v : BitVec n) : popcount v ≤ n := by
  rw [popcount_eq_toNat_cpop]
  exact BitVec.toNat_cpop_le v

theorem concat_true_sub_one {n : Nat} (x : BitVec n) : x.concat true - 1 = x.concat false := by
  rw [sub_eq_iff_eq_add]
  apply BitVec.eq_of_toNat_eq
  have hlt := (x.concat true).isLt
  rw [BitVec.toNat_concat, Bool.toNat_true] at hlt
  simp [BitVec.toNat_concat, Nat.mod_eq_of_lt hlt]

theorem concat_false_sub_one {n : Nat} (x : BitVec n) : x.concat false - 1 = (x - 1).concat true := by
  obtain ⟨y, rfl⟩ : ∃ y, x = y + 1 := ⟨x - 1, (sub_add_cancel x 1).symm⟩
  rw [add_sub_cancel_right, sub_eq_iff_eq_add]
  apply BitVec.eq_of_toNat_eq
  simp [BitVec.toNat_concat, Nat.pow_succ, ← Nat.mul_mod_mul_right, Nat.add_mul]

/-- One pass of the loop clears exactly one 1 bit: the lowest (R70, R71). -/
theorem popcount_and_sub_one {n : Nat} (v : BitVec n) (hv : v ≠ 0) : popcount (v &&& (v - 1)) + 1 = popcount v := by
  induction v using BitVec.concat_induction with
  | nil => exact absurd rfl hv
  | concat x b ih =>
    cases b with
    | true =>
      rw [concat_true_sub_one, BitVec.concat_and_concat, BitVec.and_self, popcount_concat, popcount_concat]
      simp [Nat.add_comm]
    | false =>
      have hx : x ≠ 0 := by
        rintro rfl
        exact hv BitVec.zero_concat_false
      rw [concat_false_sub_one, BitVec.concat_and_concat, popcount_concat, popcount_concat, ← ih hx]
      simp

/-- With a pass for each 1 bit the loop answers the parity of their number. -/
theorem parityLoop_eq (fuel : Nat) (v : Word) (p : Bool) (hfuel : popcount v ≤ fuel) :
    parityLoop fuel v p = (p ^^ decide (popcount v % 2 = 1)) := by
  induction fuel generalizing v p with
  | zero => simp [parityLoop, Nat.le_zero.mp hfuel]
  | succ fuel ih =>
    rw [parityLoop]
    split
    case isTrue hv => simp [hv]
    case isFalse hv =>
      have hpass := popcount_and_sub_one v hv
      have htoggle : decide (popcount v % 2 = 1) = !decide (popcount (v &&& (v - 1)) % 2 = 1) := by
        rw [← hpass, ← decide_not, decide_eq_decide]
        omega
      rw [ih _ _ (by omega), htoggle, Bool.not_xor, Bool.xor_not]

/-- `CalcParity` is the parity of the number of 1 bits (R70). -/
theorem calcParity_eq (v : Word) : calcParity v = decide (popcount v % 2 = 1) := by
  rw [calcParity, parityLoop_eq 32 v false (popcount_le v), Bool.false_xor]


/-! The command word, field by field (R51 to R53, R72). -/

/-- A CMD32 word from its fields as R55 splits it: bit 31, bits 30:23, the address in bits 22:17, bits 16:1, bit 0. -/
def cmdLayout (readFlag : Bool) (high : Byte) (a : Addr) (low : BitVec 16) (parity : Bool) :
    BitVec (1 + 8 + 6 + 16 + 1) :=
  BitVec.ofBool readFlag ++ high ++ a ++ low ++ BitVec.ofBool parity

theorem extractLsb'_one_eq_ofBool {n : Nat} (v : BitVec n) (i : Nat) : v.extractLsb' i 1 = BitVec.ofBool (v.getLsbD i) := by
  ext j hj
  obtain rfl : j = 0 := by omega
  simp

/-- Every word is the layout of its own fields. -/
theorem cmdLayout_fields (w : Word) :
    cmdLayout (w.getLsbD 31) (w.extractLsb' 23 8) (addrField w) (w.extractLsb' 1 16) (w.getLsbD 0) = w := by
  have h3 : w.extractLsb' 1 16 ++ w.extractLsb' 0 1 = w.extractLsb' 0 17 :=
    BitVec.extractLsb'_append_extractLsb'_eq_extractLsb' rfl
  rw [cmdLayout, ← extractLsb'_one_eq_ofBool, ← extractLsb'_one_eq_ofBool, addrField,
    BitVec.extractLsb'_append_extractLsb'_eq_extractLsb' (by rfl),
    BitVec.extractLsb'_append_extractLsb'_eq_extractLsb' (by rfl),
    BitVec.extractLsb'_append_extractLsb'_eq_extractLsb' (by rfl),
    BitVec.extractLsb'_append_extractLsb'_eq_extractLsb' (by rfl)]
  exact BitVec.extractLsb'_eq_self

section
variable (readFlag : Bool) (high : Byte) (a : Addr) (low : BitVec 16) (parity : Bool)

theorem cmdLayout_readFlag : (cmdLayout readFlag high a low parity).getLsbD 31 = readFlag := by
  rw [cmdLayout, BitVec.getLsbD_append, BitVec.getLsbD_append, BitVec.getLsbD_append, BitVec.getLsbD_append]
  simp

@[simp] theorem cmdLayout_high : (cmdLayout readFlag high a low parity).extractLsb' 23 8 = high := by
  rw [cmdLayout, BitVec.extractLsb'_append_eq_of_le (by decide), BitVec.extractLsb'_append_eq_of_le (by decide),
    BitVec.extractLsb'_append_eq_of_le (by decide), BitVec.extractLsb'_append_eq_right]

@[simp] theorem cmdLayout_addrField : addrField (cmdLayout readFlag high a low parity) = a := by
  rw [addrField, cmdLayout, BitVec.extractLsb'_append_eq_of_le (by decide), BitVec.extractLsb'_append_eq_of_le (by decide),
    BitVec.extractLsb'_append_eq_right]

@[simp] theorem cmdLayout_low : (cmdLayout readFlag high a low parity).extractLsb' 1 16 = low := by
  rw [cmdLayout, BitVec.extractLsb'_append_eq_of_le (by decide), BitVec.extractLsb'_append_eq_right]

theorem cmdLayout_parity : (cmdLayout readFlag high a low parity).getLsbD 0 = parity := by
  rw [cmdLayout, BitVec.getLsbD_append]
  simp

@[simp] theorem popcount_cmdLayout :
    popcount (cmdLayout readFlag high a low parity) =
      readFlag.toNat + popcount high + popcount a + popcount low + parity.toNat := by
  simp only [cmdLayout, popcount_append, popcount_ofBool]

/-- A word is a given layout exactly when it has its fields. -/
theorem eq_cmdLayout_iff (w : Word) :
    w = cmdLayout readFlag high a low parity ↔
      w.getLsbD 31 = readFlag ∧ w.extractLsb' 23 8 = high ∧ addrField w = a ∧ w.extractLsb' 1 16 = low ∧
        w.getLsbD 0 = parity := by
  constructor
  · rintro rfl
    exact ⟨cmdLayout_readFlag .., cmdLayout_high .., cmdLayout_addrField .., cmdLayout_low .., cmdLayout_parity ..⟩
  · rintro ⟨rfl, rfl, rfl, rfl, rfl⟩
    exact (cmdLayout_fields w).symm

end

theorem cmdLayout_and (r r' : Bool) (h h' : Byte) (a a' : Addr) (l l' : BitVec 16) (p p' : Bool) :
    cmdLayout r h a l p &&& cmdLayout r' h' a' l' p' =
      cmdLayout (r && r') (h &&& h') (a &&& a') (l &&& l') (p && p') := by
  simp only [cmdLayout, BitVec.and_append, BitVec.ofBool_and_ofBool]

theorem cmdLayout_or (r r' : Bool) (h h' : Byte) (a a' : Addr) (l l' : BitVec 16) (p p' : Bool) :
    cmdLayout r h a l p ||| cmdLayout r' h' a' l' p' =
      cmdLayout (r || r') (h ||| h') (a ||| a') (l ||| l') (p || p') := by
  simp only [cmdLayout, BitVec.or_append, BitVec.ofBool_or_ofBool]

/-- The 1 bits of a word are counted field by field. -/
theorem popcount_eq_fields (w : Word) :
    popcount w = (w.getLsbD 31).toNat + popcount (w.extractLsb' 23 8) + popcount (addrField w) +
      popcount (w.extractLsb' 1 16) + (w.getLsbD 0).toNat := by
  calc popcount w = popcount (cmdLayout (w.getLsbD 31) (w.extractLsb' 23 8) (addrField w) (w.extractLsb' 1 16)
        (w.getLsbD 0)) := congrArg popcount (cmdLayout_fields w).symm
    _ = _ := popcount_cmdLayout ..

/-- The operand assembly of R52 fills the address field and nothing else. -/
theorem zeroExtend_shiftLeft_eq_cmdLayout (a : Addr) : a.zeroExtend 32 <<< 17 = cmdLayout false 0 a 0 false := by
  rw [eq_cmdLayout_iff, addrField]
  refine ⟨by simp, ?_, ?_, ?_, by simp⟩
  · ext j hj
    simp [BitVec.getLsbD_of_ge a (23 + j - 17) (by omega)]
  · ext j hj
    have hin : 17 + j < 32 ∧ j < 32 := by omega
    simp [hin, hj]
  · ext j hj
    have hbelow : ¬ 17 ≤ 1 + j := by omega
    simp [hbelow]

/-- The payload is the read flag over the address (R53). -/
theorem cmdPayload_eq_cmdLayout (a : Addr) : cmdPayload a = cmdLayout true 0 a 0 false := by
  calc cmdPayload a = cmdLayout true 0 0 0 false ||| cmdLayout false 0 a 0 false := by
        rw [cmdPayload, zeroExtend_shiftLeft_eq_cmdLayout]; rfl
    _ = cmdLayout true 0 a 0 false := by rw [cmdLayout_or]; simp

/-- The bit that completes an even number of 1 bits (R53): the payload holds one more than the address. -/
theorem cmdWord_eq_cmdLayout (a : Addr) : cmdWord a = cmdLayout true 0 a 0 (popcount a % 2 == 0) := by
  have hodd : calcParity (cmdPayload a) = (popcount a % 2 == 0) := by
    rw [calcParity_eq, cmdPayload_eq_cmdLayout, popcount_cmdLayout, Bool.beq_eq_decide_eq, decide_eq_decide]
    simp
    omega
  rw [cmdWord, hodd, cmdPayload_eq_cmdLayout]
  split
  case isTrue heven =>
    calc cmdLayout true 0 a 0 false ||| 0x00000001#32
        = cmdLayout true 0 a 0 false ||| cmdLayout false 0 0 0 true := rfl
      _ = cmdLayout true 0 a 0 (popcount a % 2 == 0) := by rw [cmdLayout_or, heven]; simp
  case isFalse hnot => rw [Bool.eq_false_of_not_eq_true hnot]

/-- The encoder's fields are those of the command word: the 7-bit zero field and bit 23 are the zeros of R55 (R51). -/
theorem cmdFields_eq_cmdWord (a : Addr) : cmdFields a = cmdWord a := by
  have hupper : 1#1 ++ 0#7 ++ (0#1 ++ a) = BitVec.ofBool true ++ 0#8 ++ a := BitVec.append_assoc'
  rw [cmdWord_eq_cmdLayout, cmdFields, hupper]
  rfl

theorem isCmdWord_iff (w : Word) :
    isCmdWord w = true ↔
      w.getLsbD 31 = true ∧ w.extractLsb' 23 8 = 0 ∧ w.extractLsb' 1 16 = 0 ∧ popcount w % 2 = 0 := by
  simp only [isCmdWord, Bool.and_eq_true, beq_iff_eq, and_assoc]

/-- The fixed bits of R55 as a mask and match. -/
theorem and_cmdMask_eq_iff (w : Word) :
    w &&& 0xFF81FFFE#32 = 0x80000000#32 ↔ w.getLsbD 31 = true ∧ w.extractLsb' 23 8 = 0 ∧ w.extractLsb' 1 16 = 0 := by
  have hmask : w &&& 0xFF81FFFE#32 = cmdLayout (w.getLsbD 31) (w.extractLsb' 23 8) 0 (w.extractLsb' 1 16) false := by
    calc w &&& 0xFF81FFFE#32
        = cmdLayout (w.getLsbD 31) (w.extractLsb' 23 8) (addrField w) (w.extractLsb' 1 16) (w.getLsbD 0) &&&
            cmdLayout true (BitVec.allOnes 8) 0 (BitVec.allOnes 16) false := by rw [cmdLayout_fields]; rfl
      _ = _ := by
        rw [cmdLayout_and, Bool.and_true, BitVec.and_allOnes, BitVec.ofNat_eq_ofNat, BitVec.and_zero,
          BitVec.and_allOnes, Bool.and_false]
  have hmatch : 0x80000000#32 = cmdLayout true 0 0 0 false := rfl
  rw [hmask, hmatch, eq_cmdLayout_iff, cmdLayout_readFlag, cmdLayout_high, cmdLayout_addrField, cmdLayout_low,
    cmdLayout_parity]
  simp only [true_and, and_true]

/-- One bit beside the read flag and an address makes the number of 1 bits even in exactly one way (R53). -/
theorem ones_even_iff_parity_eq (n : Nat) (p : Bool) : (1 + n + p.toNat) % 2 = 0 ↔ p = (n % 2 == 0) := by
  rcases Nat.mod_two_eq_zero_or_one n with h | h <;> cases p <;> simp [h] <;> omega

/-- `IsCmdWord` holds of the word that its own address field builds, and of no other (R55). -/
theorem isCmdWord_iff_eq_cmdWord (w : Word) : isCmdWord w = true ↔ w = cmdWord (addrField w) := by
  have hcount (hflag : w.getLsbD 31 = true) (hhigh : w.extractLsb' 23 8 = 0) (hlow : w.extractLsb' 1 16 = 0) :
      popcount w = 1 + popcount (addrField w) + (w.getLsbD 0).toNat := by
    rw [popcount_eq_fields, hflag, hhigh, hlow]
    simp
  rw [isCmdWord_iff, cmdWord_eq_cmdLayout, eq_cmdLayout_iff]
  constructor
  · rintro ⟨hflag, hhigh, hlow, heven⟩
    rw [hcount hflag hhigh hlow, ones_even_iff_parity_eq] at heven
    exact ⟨hflag, hhigh, rfl, hlow, heven⟩
  · rintro ⟨hflag, hhigh, -, hlow, hparity⟩
    refine ⟨hflag, hhigh, hlow, ?_⟩
    rwa [hcount hflag hhigh hlow, ones_even_iff_parity_eq]

@[simp] theorem addrField_cmdWord (a : Addr) : addrField (cmdWord a) = a := by
  rw [cmdWord_eq_cmdLayout, cmdLayout_addrField]

@[simp] theorem isCmdWord_cmdWord (a : Addr) : isCmdWord (cmdWord a) = true := by
  rw [isCmdWord_iff_eq_cmdWord, addrField_cmdWord]

/-- The address field tells command words apart (R88). -/
theorem cmdWord_injective : Function.Injective cmdWord :=
  Function.LeftInverse.injective addrField_cmdWord

/-- All command words, in the order of their addresses (V2). -/
def cmdWords : List Word := (List.finRange 64).map fun i => cmdWord (BitVec.ofFin i)

theorem cmdWords_nodup : cmdWords.Nodup :=
  (List.nodup_finRange 64).map fun _ _ h => congrArg BitVec.toFin (cmdWord_injective h)

theorem mem_cmdWords_iff (w : Word) : w ∈ cmdWords ↔ isCmdWord w = true := by
  constructor
  · intro h
    obtain ⟨i, -, rfl⟩ := List.mem_map.mp h
    exact isCmdWord_cmdWord _
  · intro h
    exact List.mem_map.mpr ⟨(addrField w).toFin, List.mem_finRange _, ((isCmdWord_iff_eq_cmdWord w).mp h).symm⟩

/-- Settles O14: the fields, the mask and the builder single out the same words, one for each of the 64 addresses. -/
theorem commandWordsExactly : Obligations.CommandWordsExactly := by
  refine ⟨fun w => ⟨isCmdWord_iff w, isCmdWord_iff_eq_cmdWord w, ?_⟩, cmdWords, cmdWords_nodup, ?_,
    fun w => (mem_cmdWords_iff w).symm⟩
  · rw [isCmdWord_iff, and_cmdMask_eq_iff, and_assoc, and_assoc]
  · rw [cmdWords, List.length_map, List.length_finRange]

end Sys2Proof.Machine

namespace Sys2Proof.Machine

/-! The response frame (R56 to R59). -/

/-- A word is its status field over the 29 bits that an error frame ignores. -/
theorem statusField_append_errorPayloadField (w : Word) : statusField w ++ errorPayloadField w = w :=
  (BitVec.extractLsb'_append_extractLsb'_eq_extractLsb' rfl).trans BitVec.extractLsb'_eq_self

/-- A word is the data frame of its four fields (R56). -/
theorem respDataWord_fields (w : Word) :
    respDataWord (statusField w) (ignoredHiField w) (w.extractLsb' 5 16) (ignoredLoField w) = w := by
  have hstatus : statusField w ++ ignoredHiField w = w.extractLsb' 21 11 :=
    BitVec.extractLsb'_append_extractLsb'_eq_extractLsb' rfl
  have hvalue : w.extractLsb' 21 11 ++ w.extractLsb' 5 16 = w.extractLsb' 5 27 :=
    BitVec.extractLsb'_append_extractLsb'_eq_extractLsb' rfl
  have hlow : w.extractLsb' 5 27 ++ ignoredLoField w = w.extractLsb' 0 32 :=
    BitVec.extractLsb'_append_extractLsb'_eq_extractLsb' rfl
  rw [respDataWord, hstatus, hvalue, hlow, BitVec.extractLsb'_eq_self]

section
variable (status : StatusField) (ignoredHi : Byte) (value : RegValue) (ignoredLo : BitVec 5)

@[simp] theorem statusField_respDataWord : statusField (respDataWord status ignoredHi value ignoredLo) = status := by
  change (status ++ ignoredHi ++ value ++ ignoredLo).extractLsb' 29 3 = status
  rw [BitVec.extractLsb'_append_eq_of_le (by decide), BitVec.extractLsb'_append_eq_of_le (by decide),
    BitVec.extractLsb'_append_eq_left]

@[simp] theorem ignoredHiField_respDataWord :
    ignoredHiField (respDataWord status ignoredHi value ignoredLo) = ignoredHi := by
  change (status ++ ignoredHi ++ value ++ ignoredLo).extractLsb' 21 8 = ignoredHi
  rw [BitVec.extractLsb'_append_eq_of_le (by decide), BitVec.extractLsb'_append_eq_of_le (by decide),
    BitVec.extractLsb'_append_eq_right]

@[simp] theorem valueSlice_respDataWord : (respDataWord status ignoredHi value ignoredLo).extractLsb' 5 16 = value := by
  change (status ++ ignoredHi ++ value ++ ignoredLo).extractLsb' 5 16 = value
  rw [BitVec.extractLsb'_append_eq_of_le (by decide), BitVec.extractLsb'_append_eq_right]

@[simp] theorem ignoredLoField_respDataWord :
    ignoredLoField (respDataWord status ignoredHi value ignoredLo) = ignoredLo :=
  BitVec.extractLsb'_append_eq_right

end

@[simp] theorem statusField_respErrWord (ignored : BitVec 29) : statusField (respErrWord ignored) = 0b000 :=
  BitVec.extractLsb'_append_eq_left

@[simp] theorem errorPayloadField_respErrWord (ignored : BitVec 29) : errorPayloadField (respErrWord ignored) = ignored :=
  BitVec.extractLsb'_append_eq_right

/-- The mask of R59 keeps the status field alone. -/
theorem and_statusMask_eq_zero_iff (w : Word) : w &&& 0xE0000000#32 = 0 ↔ statusField w = 0b000 := by
  have hmask : w &&& 0xE0000000#32 = statusField w ++ 0#29 := by
    calc w &&& 0xE0000000#32
        = (statusField w ++ errorPayloadField w) &&& (BitVec.allOnes 3 ++ 0#29) := by
          rw [statusField_append_errorPayloadField]; rfl
      _ = (statusField w &&& BitVec.allOnes 3) ++ (errorPayloadField w &&& 0#29) := BitVec.and_append
      _ = statusField w ++ 0#29 := by rw [BitVec.and_allOnes, BitVec.and_zero]
  have hzero : (0 : Word) = (0b000 : StatusField) ++ 0#29 := rfl
  rw [hmask, hzero, BitVec.append_left_inj]

/-- A word with status `000` is an error frame (R59). -/
theorem decodeResp_of_status_zero {w : Word} (h : statusField w = 0b000) :
    decodeResp w = .respErr (errorPayloadField w) := by
  rw [decodeResp, if_pos ((and_statusMask_eq_zero_iff w).mpr h)]

/-- Any other word is a data frame with its four fields (R59). -/
theorem decodeResp_of_status_ne_zero {w : Word} (h : statusField w ≠ 0b000) :
    decodeResp w = .respData (statusField w) (ignoredHiField w) (w.extractLsb' 5 16) (ignoredLoField w) := by
  rw [decodeResp, if_neg (mt (and_statusMask_eq_zero_iff w).mp h)]

/-- Settles O47: the mask tests the status field, and the decoder takes the class by it. -/
theorem everyResponseIsInOneClass : Obligations.EveryResponseIsInOneClass := by
  intro w
  by_cases h : statusField w = 0b000
  · exact .inl ⟨(and_statusMask_eq_zero_iff w).mpr h, decodeResp_of_status_zero h⟩
  · exact .inr ⟨mt (and_statusMask_eq_zero_iff w).mp h, h, decodeResp_of_status_ne_zero h⟩

/-! The rows of the read command (R78 to R87; log entry 15). -/

/-- The row of an enumerated register. -/
def registerRow : SensorReg → Instr
  | .rate => .readRate
  | .temp => .readTemp
  | .locst => .readLocst
  | .hicst => .readHicst
  | .quad => .readQuad
  | .fault => .readFault
  | .pid => .readPid
  | .snh => .readSnh
  | .snl => .readSnl

theorem readRow_regAddr (r : SensorReg) : readRow (regAddr r) = registerRow r := by
  cases r <;> rfl

theorem isEnumerated_regAddr (r : SensorReg) : isEnumerated (regAddr r) = true := by
  cases r <;> rfl

/-- An enumerated address is a register's. -/
theorem exists_regAddr_of_isEnumerated {a : Addr} (h : isEnumerated a = true) : ∃ r, a = regAddr r := by
  obtain ⟨r, -, hr⟩ := List.mem_map.mp ((isEnumerated_iff_mem a).mp h)
  exact ⟨r, hr.symm⟩

/-- The general row stands for the addresses outside the map. -/
theorem readRow_of_not_isEnumerated {a : Addr} (h : isEnumerated a = false) : readRow a = .read a := by
  have hne (r : SensorReg) : a ≠ regAddr r := by
    rintro rfl
    rw [isEnumerated_regAddr] at h
    cases h
  exact (if_neg (hne .rate)).trans <| (if_neg (hne .temp)).trans <| (if_neg (hne .locst)).trans <|
    (if_neg (hne .hicst)).trans <| (if_neg (hne .quad)).trans <| (if_neg (hne .fault)).trans <|
    (if_neg (hne .pid)).trans <| (if_neg (hne .snh)).trans <| if_neg (hne .snl)

/-- A property of every read row: the nine registers' rows, and the general row outside the map. -/
theorem readRow_induction {P : Addr → Instr → Prop} (hregister : ∀ r, P (regAddr r) (registerRow r))
    (hgeneral : ∀ a, isEnumerated a = false → P a (.read a)) (a : Addr) : P a (readRow a) := by
  cases h : isEnumerated a with
  | true =>
    obtain ⟨r, rfl⟩ := exists_regAddr_of_isEnumerated h
    rw [readRow_regAddr]
    exact hregister r
  | false =>
    rw [readRow_of_not_isEnumerated h]
    exact hgeneral a h

theorem readRow_wellFormed (a : Addr) : (readRow a).wellFormed = true := by
  refine readRow_induction (P := fun _ i => i.wellFormed = true) (fun r => ?_) (fun a h => ?_) a
  · cases r <;> rfl
  · simp [Instr.wellFormed, Instr.illFormed, h]

theorem readRow_format (a : Addr) : (readRow a).format = .cmd32 := by
  refine readRow_induction (P := fun _ i => i.format = .cmd32) (fun r => ?_) (fun a _ => rfl) a
  cases r <;> rfl

/-- Every read row is written as the command word of its address: the opcode table's words are the formula's (R78 to R87). -/
theorem encode_readRow (a : Addr) : encode (readRow a) = cmdBytes a := by
  refine readRow_induction (P := fun a i => encode i = cmdBytes a) (fun r => ?_) (fun a _ => ?_) a
  · cases r <;> decide
  · rw [encode, cmdFields_eq_cmdWord, cmdBytes]

/-! The command decoder (R54, R55, R88). -/

theorem bitVec_append_inj {m n : Nat} (x x' : BitVec m) (y y' : BitVec n) : x ++ y = x' ++ y' ↔ x = x' ∧ y = y' := by
  constructor
  · intro h
    have hleft := congrArg (BitVec.extractLsb' n m) h
    have hright := congrArg (BitVec.extractLsb' 0 n) h
    rw [BitVec.extractLsb'_append_eq_left, BitVec.extractLsb'_append_eq_left] at hleft
    rw [BitVec.extractLsb'_append_eq_right, BitVec.extractLsb'_append_eq_right] at hright
    exact ⟨hleft, hright⟩
  · rintro ⟨rfl, rfl⟩
    rfl

/-- Bits 30:23 are the decoder's seven reserved bits and the bit beyond the operand. -/
theorem highBits_eq_zero_iff (w : Word) :
    w.extractLsb' 23 8 = 0 ↔ w.extractLsb' 24 7 = 0 ∧ w.getLsbD 23 = false := by
  have hsplit : w.extractLsb' 23 8 = w.extractLsb' 24 7 ++ BitVec.ofBool (w.getLsbD 23) := by
    rw [← extractLsb'_one_eq_ofBool]
    exact Eq.symm (BitVec.extractLsb'_append_extractLsb'_eq_extractLsb' rfl : _ = w.extractLsb' 23 (7 + 1))
  have hzero : (0 : Byte) = (0 : BitVec 7) ++ BitVec.ofBool false := rfl
  rw [hsplit, hzero, bitVec_append_inj, BitVec.ofBool_eq_iff_eq]

/-- Each refusal of the decoder is the failure of one condition of R55, so it answers on the command words alone. -/
theorem decodeCmd_eq_ok_iff (w : Word) (i : Instr) :
    decodeCmd w = .ok i ↔ isCmdWord w = true ∧ i = readRow (addrField w) := by
  simp only [decodeCmd, ite_eq_iff, reduceCtorEq, and_false, false_or, Except.ok.injEq, isCmdWord_iff,
    highBits_eq_zero_iff, Bool.not_eq_false, Bool.not_eq_true, not_or, ne_eq, not_not, Nat.mod_two_ne_one, eq_comm (a := i)]
  tauto

theorem decodeCmd_cmdWord (a : Addr) : decodeCmd (cmdWord a) = .ok (readRow a) := by
  rw [decodeCmd_eq_ok_iff, addrField_cmdWord]
  exact ⟨isCmdWord_cmdWord a, rfl⟩

/-- Settles O48: the decoder's refusals are the conditions of R55, and the row of an address is written as its word. -/
theorem commandDecoderAcceptsCommandWords : Obligations.CommandDecoderAcceptsCommandWords := by
  refine ⟨fun w => ?_, fun a => ⟨decodeCmd_cmdWord a, encode_readRow a⟩⟩
  simp only [decodeCmd_eq_ok_iff, exists_and_left, exists_eq, and_true]

end Sys2Proof.Machine

namespace Sys2Proof.Machine

/-! The decoders over bytes as they are stored (R32, R50): what each format's decoder accepts. -/

@[simp] theorem decodeBytes_cmd32_bytesOf (w : Word) : decodeBytes .cmd32 (bytesOf w) = decodeCmd w := by
  rw [bytesOf, decodeBytes, be32_byteOf]

@[simp] theorem decodeBytes_resp32_bytesOf (w : Word) : decodeBytes .resp32 (bytesOf w) = .ok (decodeResp w) := by
  rw [bytesOf, decodeBytes, be32_byteOf]

theorem decodeBytes_hostOp8_eq_ok_iff (bytes : List Byte) (i : Instr) :
    decodeBytes .hostOp8 bytes = .ok i ↔ ∃ b, bytes = [b] ∧ i = decodeHostOp b := by
  match bytes with
  | [] => simp [decodeBytes]
  | [b] => simp [decodeBytes, eq_comm]
  | b :: c :: rest => simp [decodeBytes]

/-- The decoders of the two wire formats answer on four bytes alone, which are those of one word. -/
theorem exists_word_of_decodeBytes_eq_ok {f : Format} (hf : formatBytes f = 4) {bytes : List Byte} {i : Instr}
    (h : decodeBytes f bytes = .ok i) : ∃ w, bytes = bytesOf w := by
  match bytes with
  | [b0, b1, b2, b3] => exact ⟨be32 b0 b1 b2 b3, (bytesOf_be32 b0 b1 b2 b3).symm⟩
  | [] | [_] | [_, _] | [_, _, _] | _ :: _ :: _ :: _ :: _ :: _ =>
    cases f <;> simp [decodeBytes, formatBytes] at h hf

/-! The round trips (R51 to R63). -/

theorem decodeResp_respErrWord (ignored : BitVec 29) : decodeResp (respErrWord ignored) = .respErr ignored := by
  rw [decodeResp_of_status_zero (statusField_respErrWord ignored), errorPayloadField_respErrWord]

theorem decodeResp_respDataWord {status : StatusField} (h : status ≠ 0b000) (ignoredHi : Byte) (value : RegValue)
    (ignoredLo : BitVec 5) :
    decodeResp (respDataWord status ignoredHi value ignoredLo) = .respData status ignoredHi value ignoredLo := by
  rw [decodeResp_of_status_ne_zero (by rwa [statusField_respDataWord]), statusField_respDataWord,
    ignoredHiField_respDataWord, valueSlice_respDataWord, ignoredLoField_respDataWord]

/-- A read row is read back from its encoding, whichever row it is. -/
theorem decodeBytes_encode_readRow (a : Addr) : decodeBytes .cmd32 (encode (readRow a)) = .ok (readRow a) := by
  rw [encode_readRow, cmdBytes, decodeBytes_cmd32_bytesOf, decodeCmd_cmdWord]

theorem read_wellFormed_iff (a : Addr) : (Instr.read a).wellFormed = true ↔ isEnumerated a = false := by
  simp [Instr.wellFormed, Instr.illFormed]

theorem respData_wellFormed_iff (status : StatusField) (ignoredHi : Byte) (value : RegValue) (ignoredLo : BitVec 5) :
    (Instr.respData status ignoredHi value ignoredLo).wellFormed = true ↔ status ≠ 0b000 := by
  simp [Instr.wellFormed, Instr.illFormed]

/-- Settles O49: a read row is the row of its address, a response is split into its fields again, and an operation word
holds its operand. -/
theorem decodeOfEncode : Obligations.DecodeOfEncode := by
  intro i hwf
  cases i with
  | read a =>
    rw [read_wellFormed_iff] at hwf
    rw [← readRow_of_not_isEnumerated hwf, readRow_format, decodeBytes_encode_readRow]
  | readRate => exact decodeBytes_encode_readRow (regAddr .rate)
  | readTemp => exact decodeBytes_encode_readRow (regAddr .temp)
  | readLocst => exact decodeBytes_encode_readRow (regAddr .locst)
  | readHicst => exact decodeBytes_encode_readRow (regAddr .hicst)
  | readQuad => exact decodeBytes_encode_readRow (regAddr .quad)
  | readFault => exact decodeBytes_encode_readRow (regAddr .fault)
  | readPid => exact decodeBytes_encode_readRow (regAddr .pid)
  | readSnh => exact decodeBytes_encode_readRow (regAddr .snh)
  | readSnl => exact decodeBytes_encode_readRow (regAddr .snl)
  | respErr ignored =>
    rw [Instr.format, encode, decodeBytes_resp32_bytesOf, decodeResp_respErrWord]
  | respData status ignoredHi value ignoredLo =>
    rw [respData_wellFormed_iff] at hwf
    rw [Instr.format, encode, decodeBytes_resp32_bytesOf, decodeResp_respDataWord hwf]
  | idle => rfl
  | frame a =>
    rw [Instr.format, encode, decodeBytes, decodeHostOp_frameOpWord]
  | decode => rfl
  | rsvd => rfl

/-- The encoder keeps the `op` field of an operation word, and the whole word of a `FRAME` (R63). -/
theorem encode_decodeHostOp (b : Byte) :
    (decodeHostOp b).format = .hostOp8 ∧
      ∃ c, encode (decodeHostOp b) = [c] ∧ opField c = opField b ∧ (opField b = 0b01 → c = b) := by
  rcases opField_cases b with h | h | h | h
  · rw [decodeHostOp_idle h, h]
    exact ⟨rfl, idleOpWord, rfl, rfl, fun hframe => absurd hframe (by decide)⟩
  · rw [decodeHostOp_frame h, h]
    refine ⟨rfl, frameOpWord (opAddrField b), rfl, opField_frameOpWord _, fun _ => ?_⟩
    rw [frameOpWord, ← opField_append_opAddrField b, opAddrField_append, h]
    rfl
  · rw [decodeHostOp_decode h, h]
    exact ⟨rfl, decodeOpWord, rfl, rfl, fun hframe => absurd hframe (by decide)⟩
  · rw [decodeHostOp_rsvd h, h]
    exact ⟨rfl, rsvdOpWord, rfl, rfl, fun hframe => absurd hframe (by decide)⟩

/-- An error frame holds nothing but its ignored bits. -/
theorem respErrWord_errorPayloadField {w : Word} (h : statusField w = 0b000) : respErrWord (errorPayloadField w) = w := by
  calc respErrWord (errorPayloadField w) = statusField w ++ errorPayloadField w := by rw [h]; rfl
    _ = w := statusField_append_errorPayloadField w

/-- Whichever class a response is in, its row is well formed and holds every bit of it (R56, R59). -/
theorem encode_decodeResp (w : Word) :
    (decodeResp w).wellFormed = true ∧ (decodeResp w).format = .resp32 ∧ encode (decodeResp w) = bytesOf w := by
  by_cases h : statusField w = 0b000
  · rw [decodeResp_of_status_zero h]
    exact ⟨rfl, rfl, congrArg bytesOf (respErrWord_errorPayloadField h)⟩
  · rw [decodeResp_of_status_ne_zero h]
    refine ⟨(respData_wellFormed_iff _ _ _ _).mpr h, rfl, ?_⟩
    rw [encode, respDataWord_fields]

/-- Settles O50: each format's decoder splits its word into fields that the encoder puts together again, but for the
ignored `addr` field of an operation that has no operand. -/
theorem encodeOfDecode : Obligations.EncodeOfDecode := by
  intro f bytes i h
  cases f with
  | hostOp8 =>
    obtain ⟨b, rfl, rfl⟩ := (decodeBytes_hostOp8_eq_ok_iff bytes i).mp h
    obtain ⟨hformat, c, hencode, hop, hframe⟩ := encode_decodeHostOp b
    exact ⟨decodeHostOp_wellFormed b, hformat, b, c, rfl, hencode, hop, hframe⟩
  | cmd32 =>
    obtain ⟨w, rfl⟩ := exists_word_of_decodeBytes_eq_ok rfl h
    rw [decodeBytes_cmd32_bytesOf, decodeCmd_eq_ok_iff] at h
    obtain ⟨hcmd, rfl⟩ := h
    refine ⟨readRow_wellFormed _, readRow_format _, ?_⟩
    change encode (readRow (addrField w)) = bytesOf w
    rw [encode_readRow, cmdBytes, ← (isCmdWord_iff_eq_cmdWord w).mp hcmd]
  | resp32 =>
    obtain ⟨w, rfl⟩ := exists_word_of_decodeBytes_eq_ok rfl h
    rw [decodeBytes_resp32_bytesOf, Except.ok.injEq] at h
    subst h
    exact encode_decodeResp w

end Sys2Proof.Machine

/-! Proofs of the family 40_command_framer.md: the parity loop (R70, R71), the parity bit (R73), the command word and its
bytes (R74, R76, R88), `FRAME` (R75), the read rows (R78 to R87), and the step that runs a row of the table. -/

namespace Sys2Proof.Machine

/-! The loop of `CalcParity`, pass by pass (R70, R71). -/

/-- What one pass of the loop does to its working value (R70). -/
def clearLowestOne (v : Word) : Word := v &&& (v - 1)

/-- A word that is not zero has a 1 bit, because a pass finds one to clear. -/
theorem popcount_eq_zero_iff (v : Word) : popcount v = 0 ↔ v = 0 := by
  constructor
  · intro hcount
    by_contra hv
    have hpass := popcount_and_sub_one v hv
    omega
  · rintro rfl
    exact popcount_zero 32

/-- `n` passes remove `n` 1 bits, for as long as there are 1 bits to remove. -/
theorem popcount_iterate_clearLowestOne (v : Word) (n : Nat) (hn : n ≤ popcount v) :
    popcount (clearLowestOne^[n] v) + n = popcount v := by
  induction n with
  | zero => rfl
  | succ n ih =>
    have ih := ih (by omega)
    have hne : clearLowestOne^[n] v ≠ 0 := fun hzero => by
      have := (popcount_eq_zero_iff _).mpr hzero
      omega
    have hpass : popcount (clearLowestOne (clearLowestOne^[n] v)) + 1 = popcount (clearLowestOne^[n] v) :=
      popcount_and_sub_one _ hne
    rw [Function.iterate_succ_apply']
    omega

/-- The working value is used up at `popcount(v)` passes and not before. -/
theorem iterate_clearLowestOne_eq_zero_iff (v : Word) (n : Nat) (hn : n ≤ popcount v) :
    clearLowestOne^[n] v = 0 ↔ n = popcount v := by
  have hcount := popcount_iterate_clearLowestOne v n hn
  rw [← popcount_eq_zero_iff]
  omega

/-- One pass of the loop at a working value that is not zero. -/
theorem parityLoop_succ (fuel : Nat) (v : Word) (p : Bool) (hv : v ≠ 0) :
    parityLoop (fuel + 1) v p = parityLoop fuel (clearLowestOne v) (!p) := by
  rw [parityLoop, if_neg hv, clearLowestOne]

/-- Where the loop stands after `n` passes. -/
theorem parityLoop_add (n m : Nat) (v : Word) (p : Bool) (hn : n ≤ popcount v) :
    parityLoop (n + m) v p = parityLoop m (clearLowestOne^[n] v) (p ^^ decide (n % 2 = 1)) := by
  induction n generalizing v p with
  | zero => simp
  | succ n ih =>
    have hv : v ≠ 0 := fun hzero => by
      have := (popcount_eq_zero_iff v).mpr hzero
      omega
    have hpass : popcount (clearLowestOne v) + 1 = popcount v := popcount_and_sub_one v hv
    have htoggle : decide ((n + 1) % 2 = 1) = !decide (n % 2 = 1) := by
      rw [← decide_not, decide_eq_decide]
      omega
    calc parityLoop (n + 1 + m) v p = parityLoop (n + m) (clearLowestOne v) (!p) := by
          rw [Nat.add_right_comm, parityLoop_succ _ _ _ hv]
      _ = parityLoop m (clearLowestOne^[n] (clearLowestOne v)) (!p ^^ decide (n % 2 = 1)) := ih _ _ (by omega)
      _ = parityLoop m (clearLowestOne^[n + 1] v) (p ^^ decide ((n + 1) % 2 = 1)) := by
          rw [htoggle, Bool.not_xor, Bool.xor_not, Function.iterate_succ_apply]

/-- A pass toggles the result: what is left has one 1 bit fewer. -/
theorem calcParity_eq_not_clearLowestOne (v : Word) (hv : v ≠ 0) : calcParity v = !calcParity (clearLowestOne v) := by
  have hpass : popcount (clearLowestOne v) + 1 = popcount v := popcount_and_sub_one v hv
  rw [calcParity_eq, calcParity_eq, ← decide_not, decide_eq_decide]
  omega

/-- Settles O9: every pass takes one 1 bit away and toggles, so the loop is through after one pass for each. -/
theorem parityLoopOfTheSpec : Obligations.ParityLoopOfTheSpec := by
  refine ⟨by decide, by decide, by decide, fun v => ?_, calcParity_eq_not_clearLowestOne,
    fun v => ⟨popcount_le v, fun n p hn => ?_⟩,
    fun v n hn => ⟨fun m p => parityLoop_add n m v p hn, iterate_clearLowestOne_eq_zero_iff v n hn⟩⟩
  · rw [calcParity_eq, decide_eq_true_iff]
  · rw [parityLoop_eq n v p hn, parityLoop_eq (popcount v) v p le_rfl]

/-- The exclusive or over a list of bits is the parity of how many of them are set. -/
theorem foldl_xor_eq (bit : Nat → Bool) (l : List Nat) (p : Bool) :
    l.foldl (fun p i => p ^^ bit i) p = (p ^^ decide (l.countP bit % 2 = 1)) := by
  induction l generalizing p with
  | nil => simp
  | cons i l ih =>
    have hcons : decide ((i :: l).countP bit % 2 = 1) = (bit i ^^ decide (l.countP bit % 2 = 1)) := by
      cases hbit : bit i with
      | true =>
        rw [List.countP_cons_of_pos hbit, Bool.true_xor, ← decide_not, decide_eq_decide]
        omega
      | false => rw [List.countP_cons_of_neg (by simp [hbit]), Bool.false_xor]
    rw [List.foldl_cons, ih, hcons, Bool.xor_assoc]

/-- The exclusive or of all bits is the parity of the number of 1 bits, at every width (R71). -/
theorem xorBits_eq {n : Nat} (v : BitVec n) : xorBits v = decide (popcount v % 2 = 1) := by
  rw [xorBits, foldl_xor_eq, Bool.false_xor, popcount]

/-- Settles O10: the loop and the exclusive or both answer the parity of the number of 1 bits. -/
theorem parityIsXorOfAllBits : Obligations.ParityIsXorOfAllBits := fun v =>
  ⟨calcParity_eq v, (calcParity_eq v).trans (xorBits_eq v).symm, popcount_and_sub_one v⟩

/-! The parity bit and the command word in closed form (R73, R76, R88). -/

/-- The read flag is one more 1 bit than the address has (R73). -/
theorem popcount_cmdPayload (a : Addr) : popcount (cmdPayload a) = 1 + popcount a := by
  rw [cmdPayload_eq_cmdLayout, popcount_cmdLayout]
  simp

theorem parityBit_eq (a : Addr) : parityBit a = decide (popcount a % 2 = 0) := by
  rw [parityBit, xorBits_eq, ← decide_not, decide_eq_decide]
  omega

/-- The closed form of `P` is what `CalcParity` gives for the payload (R72, R73). -/
theorem calcParity_cmdPayload (a : Addr) : calcParity (cmdPayload a) = parityBit a := by
  rw [calcParity_eq, popcount_cmdPayload, parityBit_eq, decide_eq_decide]
  omega

theorem xorBits_addr (a : Addr) :
    xorBits a = (a.getLsbD 5 ^^ a.getLsbD 4 ^^ a.getLsbD 3 ^^ a.getLsbD 2 ^^ a.getLsbD 1 ^^ a.getLsbD 0) := by
  simp only [xorBits, List.range_succ, List.range_zero, List.nil_append, List.cons_append, List.foldl_cons,
    List.foldl_nil, Bool.false_xor, Bool.xor_assoc, Bool.xor_comm]

/-- The command word is the payload with `P` in bit 0 (R72). -/
theorem cmdWord_eq_or (a : Addr) :
    cmdWord a = 0x80000000#32 ||| (a.zeroExtend 32 <<< 17) ||| (BitVec.ofBool (parityBit a)).zeroExtend 32 := by
  rw [cmdWord, calcParity_cmdPayload, cmdPayload]
  cases parityBit a with
  | true => rfl
  | false => exact BitVec.or_zero.symm

/-- Settles O11: the payload's 1 bits are the read flag and the address's, and bit 0 completes an even number. -/
theorem parityBitClosedForm : Obligations.ParityBitClosedForm := by
  refine fun a => ⟨popcount_cmdPayload a, ?_, ?_, cmdWord_eq_or a⟩
  · rw [parityBit_eq, decide_eq_true_iff]
  · rw [parityBit, xorBits_addr]

/-- Bits 23:17 are the bit beyond the operand, which is clear, over the address (R52). -/
theorem addrField7_cmdWord (a : Addr) : (cmdWord a).extractLsb' 17 7 = a.zeroExtend 7 := by
  have hbeyond : (cmdWord a).getLsbD 23 = false := by
    obtain ⟨-, hhigh, -, -⟩ := (isCmdWord_iff _).mp (isCmdWord_cmdWord a)
    exact ((highBits_eq_zero_iff _).mp hhigh).2
  calc (cmdWord a).extractLsb' 17 7 = (cmdWord a).extractLsb' 23 1 ++ addrField (cmdWord a) :=
        Eq.symm (BitVec.extractLsb'_append_extractLsb'_eq_extractLsb' rfl : _ = (cmdWord a).extractLsb' 17 (1 + 6))
    _ = 0#1 ++ a := by rw [extractLsb'_one_eq_ofBool, hbeyond, addrField_cmdWord]; rfl
    _ = a.zeroExtend 7 := (BitVec.setWidth_eq_append (by decide)).symm

/-- Settles O12: a command word meets `IsCmdWord`, whose conditions are the fixed bits of the rule. -/
theorem commandWordProperties : Obligations.CommandWordProperties := by
  intro a
  have hcmd := isCmdWord_cmdWord a
  obtain ⟨hflag, hhigh, hlow, heven⟩ := (isCmdWord_iff _).mp hcmd
  obtain ⟨hreserved, -⟩ := (highBits_eq_zero_iff _).mp hhigh
  exact ⟨heven, hflag, addrField7_cmdWord a, hreserved, hlow, hcmd⟩

/-- Settles O13: the address field undoes the builder. -/
theorem commandWordInjective : Obligations.CommandWordInjective :=
  ⟨fun _ _ => cmdWord_injective.eq_iff, fun a => ⟨addrField_cmdWord a, addrField_cmdWord a⟩⟩

/-! `FRAME` (R74, R75). -/

/-- A frame stored twice reads as a frame stored once. -/
theorem readByte_writeFrame_twice (m : Memory) (addr : Nat) (w : Word) (x : Nat) :
    readByte (writeFrame (writeFrame m addr w) addr w) x = readByte (writeFrame m addr w) x := by
  by_cases hx : addr ≤ x ∧ x < addr + 4
  · obtain ⟨i, rfl⟩ := Nat.exists_eq_add_of_le hx.1
    have hi : i < 4 := by omega
    rw [readByte_writeFrame_inside _ _ _ i hi, readByte_writeFrame_inside _ _ _ i hi]
  · exact readByte_writeFrame_outside _ _ _ x hx

/-- Settles O16: `FRAME` stores the command word whatever stood there, so a second `FRAME` stores the same bytes. -/
theorem frameBuildsCommand : Obligations.FrameBuildsCommand := by
  refine ⟨commandIssued_exec_frame, fun a s => ?_, fun b hb => decodeHostOp_frame hb, by decide, by decide, by decide,
    by decide⟩
  exact ⟨_, _, exec_frame a s, exec_frame a _, readByte_writeFrame_twice s.frameBuffer Config.txBase (cmdWord a),
    rfl, rfl, rfl⟩

/-- Shifting the address one place up within byte 1 puts it at bit 17 of the word (R52, R74). -/
theorem addrByte_shiftLeft (a : Addr) : (a.zeroExtend 8 <<< 1).zeroExtend 32 <<< 16 = a.zeroExtend 32 <<< 17 := by
  have ha := a.isLt
  have hbyte : (a.zeroExtend 8 <<< 1).toNat = a.toNat * 2 := by
    rw [BitVec.toNat_shiftLeft, BitVec.toNat_setWidth_of_le (by decide), Nat.shiftLeft_eq]
    omega
  apply BitVec.eq_of_toNat_eq
  rw [toNat_zeroExtend_shiftLeft _ 16 (by decide), hbyte, BitVec.toNat_shiftLeft, BitVec.toNat_setWidth_of_le (by decide),
    Nat.shiftLeft_eq, Nat.shiftLeft_eq]
  omega

/-- The command word put together from its four bytes (R74). -/
theorem cmdWord_eq_be32 (a : Addr) :
    cmdWord a = be32 0x80 (a.zeroExtend 8 <<< 1) 0x00 ((BitVec.ofBool (parityBit a)).zeroExtend 8) := by
  have hparity : ((BitVec.ofBool (parityBit a)).zeroExtend 8).zeroExtend 32 = (BitVec.ofBool (parityBit a)).zeroExtend 32 :=
    BitVec.setWidth_setWidth (by decide)
  rw [be32, addrByte_shiftLeft, hparity, cmdWord_eq_or]
  congr 1
  exact BitVec.or_zero.symm

theorem cmdBytes_eq (a : Addr) :
    cmdBytes a = [0x80#8, a.zeroExtend 8 <<< 1, 0x00#8, (BitVec.ofBool (parityBit a)).zeroExtend 8] := by
  rw [cmdBytes, cmdWord_eq_be32, bytesOf_be32]
  rfl

/-- Settles O17: the closed form of the word is the layout of the four bytes, and `FRAME` stores the word's bytes. -/
theorem frameStoresCommandBytes : Obligations.FrameStoresCommandBytes := by
  refine fun a s => ⟨cmdBytes_eq a, _, exec_frame a s, ?_⟩
  have hbyte (i : Nat) (hi : i < 4) := readByte_writeFrame_txBase s.frameBuffer (cmdWord a) i hi
  rw [mk_byteAt, mk_byteAt, mk_byteAt, mk_byteAt, hbyte 0 (by decide), hbyte 1 (by decide), hbyte 2 (by decide),
    hbyte 3 (by decide)]
  rfl

/-! The read rows (R78 to R87; log entry 5). -/

/-- The columns of R78 to R86 follow from the address by the closed forms of R72 to R74. -/
theorem enumeratedCommand_of_columns {r : SensorReg} {addr : Addr} {payload : Word} {ones : Nat} {parity : Bool}
    {word : Word} {bytes : List Byte} {opWord : Byte}
    (hcolumns : regAddr r = addr ∧ 0x80000000#32 ||| (addr.zeroExtend 32 <<< 17) = payload ∧ 1 + popcount addr = ones ∧
      decide (popcount addr % 2 = 0) = parity ∧ payload ||| (BitVec.ofBool parity).zeroExtend 32 = word ∧
      bytesOf word = bytes ∧ frameOpWord addr = opWord) :
    EnumeratedCommand r addr payload ones parity word bytes opWord := by
  obtain ⟨haddr, hpayload, rfl, rfl, rfl, rfl, rfl⟩ := hcolumns
  have hpayload : cmdPayload addr = payload := hpayload
  have hword : cmdWord addr = payload ||| (BitVec.ofBool (decide (popcount addr % 2 = 0))).zeroExtend 32 := by
    rw [cmdWord_eq_or, parityBit_eq, ← hpayload, cmdPayload]
  rw [← hword]
  exact ⟨haddr, hpayload, hpayload ▸ popcount_cmdPayload addr, parityBit_eq addr, rfl, rfl,
    decodeHostOp_frameOpWord addr, commandIssued_exec_frame addr⟩

/-- Settles O18: the columns of each row, evaluated from its address. -/
theorem nineReadCommandWords : Obligations.NineReadCommandWords := by
  refine ⟨?_, ?_, ?_, ?_, ?_, ?_, ?_, ?_, ?_⟩ <;> exact enumeratedCommand_of_columns (by decide)

/-- An enumerated row runs as the `FRAME` its rule names. -/
theorem exec_registerRow (r : SensorReg) (s : State) : exec (registerRow r) s = exec (.frame (regAddr r)) s := by
  cases r <;> rfl

/-- The general row runs as the `FRAME` of its operand (R87). -/
theorem exec_read (a : Addr) (s : State) : exec (.read a) s = exec (.frame a) s := rfl

theorem exec_readRow (a : Addr) (s : State) : exec (readRow a) s = exec (.frame a) s :=
  readRow_induction (P := fun a i => exec i s = exec (.frame a) s) (fun r => exec_registerRow r s)
    (fun a _ => exec_read a s) a

/-- A register's row issues the command word that its rule gives. -/
theorem commandIssued_exec_registerRow {r : SensorReg} {addr : Addr} {payload : Word} {ones : Nat} {parity : Bool}
    {word : Word} {bytes : List Byte} {opWord : Byte}
    (h : EnumeratedCommand r addr payload ones parity word bytes opWord) (s : State) :
    CommandIssued s word (exec (registerRow r) s) := by
  obtain ⟨rfl, -, -, -, -, -, -, hissued⟩ := h
  rw [exec_registerRow]
  exact hissued s

/-- Settles O19: each row runs as the `FRAME` of its register, which stores the row's word. -/
theorem readRowsIssueTheirCommand : Obligations.ReadRowsIssueTheirCommand := by
  intro s
  obtain ⟨hrate, htemp, hlocst, hhicst, hquad, hfault, hpid, hsnh, hsnl⟩ := nineReadCommandWords
  exact ⟨commandIssued_exec_registerRow hrate s, commandIssued_exec_registerRow htemp s,
    commandIssued_exec_registerRow hlocst s, commandIssued_exec_registerRow hhicst s,
    commandIssued_exec_registerRow hquad s, commandIssued_exec_registerRow hfault s,
    commandIssued_exec_registerRow hpid s, commandIssued_exec_registerRow hsnh s,
    commandIssued_exec_registerRow hsnl s, fun a => ⟨commandIssued_exec_frame a s, exec_readRow a s⟩⟩

/-! The step that runs a row of the table (log entries 5, 6, 7, 16). -/

/-- A row's bits are an operation word, a command word, or a response that is no command word. -/
theorem decodeTableWord_cases {nbits w : Nat} {i : Instr} (h : decodeTableWord nbits w = some i) :
    (nbits = 8 ∧ i = decodeHostOp (BitVec.ofNat 8 w)) ∨
    (nbits = 32 ∧ decodeCmd (BitVec.ofNat 32 w) = .ok i) ∨
    (nbits = 32 ∧ (∃ e, decodeCmd (BitVec.ofNat 32 w) = .error e) ∧ i = decodeResp (BitVec.ofNat 32 w)) := by
  unfold decodeTableWord at h
  split at h
  case isTrue h8 =>
    cases h
    exact .inl ⟨h8, rfl⟩
  case isFalse =>
    split at h
    case isTrue h32 =>
      rw [decodeWire, decodeBytes_cmd32_bytesOf] at h
      cases hcmd : decodeCmd (BitVec.ofNat 32 w) with
      | ok j =>
        rw [hcmd] at h
        cases h
        exact .inr (.inl ⟨h32, rfl⟩)
      | error e =>
        rw [hcmd, decodeBytes_resp32_bytesOf] at h
        cases h
        exact .inr (.inr ⟨h32, ⟨e, rfl⟩, rfl⟩)
    case isFalse => cases h

/-- A response row latches the word it was read from: its fields hold the word's status and value (R106, R107). -/
theorem exec_decodeResp (w : Word) (s : State) : exec (decodeResp w) s = .next (latchFrame w s) := by
  by_cases h : statusField w = 0b000
  · rw [decodeResp_of_status_zero h]
    calc exec (.respErr (errorPayloadField w)) s = .next (latchFrame (respErrWord (errorPayloadField w)) s) := rfl
      _ = .next (latchFrame w s) := by rw [respErrWord_errorPayloadField h]
  · rw [decodeResp_of_status_ne_zero h]
    calc exec (.respData (statusField w) (ignoredHiField w) (w.extractLsb' 5 16) (ignoredLoField w)) s
        = .next (latchFrame (respDataWord (statusField w) (ignoredHiField w) (w.extractLsb' 5 16) (ignoredLoField w)) s) :=
          rfl
      _ = .next (latchFrame w s) := by rw [respDataWord_fields]

/-- The step after the host's list is given an operation word runs that operation. -/
theorem step_presentOp (b : Byte) (s : State) : step (presentOp b s) = exec (decodeHostOp b) s :=
  step_cons (presentOp b s) (.op b) s.program (presentOp_program b s)

theorem step_presentCommand (w : Word) (s : State) :
    step (presentCommand w s) = exec (readRow (addrField w)) s := by
  rw [presentCommand, step_presentOp, decodeHostOp_frameOpWord, exec_readRow]

/-- The step that decodes a response put in `RXBUF` runs the response's own row there. -/
theorem step_presentResponse (w : Word) (s : State) :
    step (presentResponse w s) = exec (decodeResp w) { presentResponse w s with program := s.program } := by
  rw [presentResponse, step_presentOp, decodeHostOp_decode (by decide), exec_decode, exec_decodeResp, mk_rxw,
    readFrame_writeFrame_same]
  rfl

/-- Settles O39: an operation word is presented, a command issued by the `FRAME` of its address, and a response decoded out
of `RXBUF`. -/
theorem stepRunsTheTableWord : Obligations.StepRunsTheTableWord := by
  intro s nbits w i h
  rcases decodeTableWord_cases h with ⟨rfl, rfl⟩ | ⟨rfl, hcmd⟩ | ⟨rfl, ⟨e, herr⟩, rfl⟩
  · exact ⟨decodeHostOp_wellFormed _, step_presentOp _ s⟩
  · have hput : s.withFetchWord 32 w = presentCommand (BitVec.ofNat 32 w) s := by
      simp [State.withFetchWord, presentTableWord, hcmd]
    obtain ⟨-, rfl⟩ := (decodeCmd_eq_ok_iff _ i).mp hcmd
    rw [hput]
    exact ⟨readRow_wellFormed _, step_presentCommand _ s⟩
  · have hput : s.withFetchWord 32 w = presentResponse (BitVec.ofNat 32 w) s := by
      simp [State.withFetchWord, presentTableWord, herr]
    obtain ⟨hwf, -, -⟩ := encode_decodeResp (BitVec.ofNat 32 w)
    rw [hput]
    exact ⟨hwf, step_presentResponse _ s⟩

end Sys2Proof.Machine

/-! Proofs of the family 41_frame_decoder.md: the frame-error test (R102), the value field and its byte form (R104,
R109, R112), `DECODE` (R105), and the two classes of response frame (R106, R107). -/

namespace Sys2Proof.Machine

/-! The leading field of a word or byte, by mask and by bound (R102, R106). -/

/-- The mask of the leading `n` bits tests those bits alone. -/
theorem and_leadingOnes_eq_zero_iff {n k : Nat} (v : BitVec (n + k)) :
    v &&& (BitVec.allOnes n ++ 0#k) = 0 ↔ v.extractLsb' k n = 0 := by
  have hmask : v &&& (BitVec.allOnes n ++ 0#k) = v.extractLsb' k n ++ 0#k := by
    calc v &&& (BitVec.allOnes n ++ 0#k)
        = (v.extractLsb' k n ++ v.extractLsb' 0 k) &&& (BitVec.allOnes n ++ 0#k) := by
          rw [BitVec.extractLsb'_append_extractLsb']
      _ = v.extractLsb' k n ++ 0#k := by rw [BitVec.and_append, BitVec.and_allOnes, BitVec.and_zero]
  have hzero : (0 : BitVec (n + k)) = (0 : BitVec n) ++ 0#k := BitVec.zero_append_zero.symm
  rw [hmask, hzero, BitVec.append_left_inj]

/-- The leading `n` bits are zero exactly for the numbers that fit in the `k` bits under them. -/
theorem leadingBits_eq_zero_iff_toNat_lt {n k : Nat} (v : BitVec (n + k)) :
    v.extractLsb' k n = 0 ↔ v.toNat < 2 ^ k := by
  have hlt : v.toNat / 2 ^ k < 2 ^ n := Nat.div_lt_of_lt_mul (Nat.pow_add' 2 n k ▸ v.isLt)
  rw [← BitVec.toNat_inj, BitVec.extractLsb'_toNat, Nat.shiftRight_eq_div_pow, Nat.mod_eq_of_lt hlt]
  exact Nat.div_eq_zero_iff_lt (Nat.two_pow_pos k)

theorem frameError_iff_status (b0 : Byte) : frameError b0 = true ↔ b0.extractLsb' 5 3 = 0b000 := beq_iff_eq

theorem frameError_iff_mask (b0 : Byte) : frameError b0 = true ↔ b0 &&& 0xE0#8 = 0 :=
  (frameError_iff_status b0).trans (and_leadingOnes_eq_zero_iff (n := 3) (k := 5) b0).symm

/-- Settles O26: the mask and the bound of R102 both test the top three bits. -/
theorem frameErrorTests : Obligations.FrameErrorTests := by
  refine fun b0 => ⟨frameError_iff_status b0, frameError_iff_mask b0, ?_⟩
  rw [frameError_iff_status, BitVec.le_def]
  exact (leadingBits_eq_zero_iff_toNat_lt (n := 3) (k := 5) b0).trans Nat.lt_succ_iff

/-! The value field (R103, R104, R109). -/

/-- The mask of R103 removes nothing from the 16 bits that are kept. -/
theorem truncate_and_valueMask (v : Word) : (v &&& 0xFFFF#32).truncate 16 = v.truncate 16 :=
  calc (v &&& 0xFFFF#32).truncate 16 = v.truncate 16 &&& BitVec.allOnes 16 := BitVec.setWidth_and
    _ = v.truncate 16 := BitVec.and_allOnes

/-- The decoder's value field is the slice of R57. -/
theorem valueField_eq_slice (w : Word) : valueField w = w.extractLsb' 5 16 :=
  (truncate_and_valueMask (w >>> 5)).trans BitVec.setWidth_ushiftRight_eq_extractLsb

/-- The sign bits of an arithmetic shift land above the 16 bits that are kept (R109). -/
theorem valueField_eq_sshiftRight (w : Word) : valueField w = ((w.sshiftRight 5) &&& 0xFFFF#32).truncate 16 := by
  rw [truncate_and_valueMask, valueField_eq_slice]
  ext i hi
  have hinside : 5 + i < 32 := by omega
  have hkept : i < 32 := by omega
  rw [BitVec.getElem_extractLsb', BitVec.truncate_eq_setWidth, BitVec.getElem_setWidth, BitVec.getLsbD_sshiftRight,
    if_pos hinside]
  simp [hkept]

/-- The value slice of a response in terms of its bytes (R104). -/
theorem valueSlice_respWord (b0 b1 b2 b3 : Byte) :
    (respWord b0 b1 b2 b3).extractLsb' 5 16 = b1.extractLsb' 0 5 ++ b2 ++ b3.extractLsb' 5 3 := by
  have hbytes := bytesOf_be32 b0 b1 b2 b3
  simp only [bytesOf, List.cons.injEq, and_true] at hbytes
  obtain ⟨-, h1, h2, h3⟩ := hbytes
  rw [respWord, valueSlice_eq_append, h1, h2, h3]

/-- Byte 0 takes part in the decoder's value through the error test alone (R104). -/
theorem valueOf_eq (b0 b1 b2 b3 : Byte) :
    valueOf b0 b1 b2 b3 =
      if frameError b0 = true then 0x0000 else b1.extractLsb' 0 5 ++ b2 ++ b3.extractLsb' 5 3 := by
  simp only [valueOf, ← frameError_iff_mask, valueField_eq_slice, valueSlice_respWord]

/-- Settles O27: the written forms are the append of the three byte fields and its layout by shifts, and in the append
stand the only bits of bytes 1 and 3 that count. -/
theorem valueFromBytes : Obligations.ValueFromBytes := by
  refine ⟨fun b0 b1 b2 b3 hdata => ?_, fun b0 b1 b2 b3 c0 c1 c3 herror hhigh hlow => ?_⟩
  · have hvalue : valueOf b0 b1 b2 b3 = b1.extractLsb' 0 5 ++ b2 ++ b3.extractLsb' 5 3 := by
      rw [valueOf_eq, if_neg (mt (frameError_iff_status b0).mp hdata)]
    have hshifts := BitVec.setWidth_append_append_eq_shiftLeft_setWidth_or (w''' := 16) (b := b1.extractLsb' 0 5)
      (b' := b2) (b'' := b3.extractLsb' 5 3)
    exact ⟨hvalue.trans hshifts, hvalue⟩
  · rw [valueOf_eq, valueOf_eq, herror, hhigh, hlow]

/-! What a latched frame leaves in the results (R105). -/

/-- `VALUE` after a latch, by the slice of R57. -/
theorem latchFrame_value_eq_slice (w : Word) (s : State) :
    (latchFrame w s).value = if statusField w = 0b000 then 0x0000 else w.extractLsb' 5 16 := by
  rw [latchFrame_value, valueField_eq_slice]

theorem latchFrame_value_of_data {w : Word} (h : statusField w ≠ 0b000) (s : State) :
    (latchFrame w s).value = w.extractLsb' 5 16 := by
  rw [latchFrame_value_eq_slice, if_neg h]

@[simp] theorem latchFrame_err (w : Word) (s : State) : (latchFrame w s).err = errOf (statusField w) := rfl

/-- A latch takes nothing of the results that stood there, so latching a frame twice is latching it once. -/
@[simp] theorem latchFrame_latchFrame (w : Word) (s : State) : latchFrame w (latchFrame w s) = latchFrame w s := rfl

theorem resultLatched_latchFrame (w : Word) (s : State) :
    ResultLatched s (statusField w) (if statusField w = 0b000 then 0x0000 else w.extractLsb' 5 16)
      (.next (latchFrame w s)) :=
  ⟨_, rfl, latchFrame_status w s, latchFrame_value_eq_slice w s, latchFrame_byteAt w s, latchFrame_program w s⟩

theorem resultLatched_exec_decode (s : State) :
    ResultLatched s (statusField s.rxw) (if statusField s.rxw = 0b000 then 0x0000 else s.rxw.extractLsb' 5 16)
      (exec .decode s) := by
  rw [exec_decode]
  exact resultLatched_latchFrame s.rxw s

/-- The status field stands in byte 0 (R101). -/
theorem statusField_rxw (s : State) : statusField s.rxw = (s.byteAt 4).extractLsb' 5 3 := by
  rw [byteAt_eq_byteOf_rxw s 0 (by decide), extractLsb'_byteOf s.rxw 0 5 3 (by decide)]
  rfl

/-- `err` after `DECODE` is the error test of the first byte of `RXBUF`. -/
theorem latchFrame_rxw_err (s : State) : (latchFrame s.rxw s).err = frameError (s.byteAt 4) := by
  rw [latchFrame_err, statusField_rxw]
  rfl

/-- The value slice of `RXW` is put together from the bytes of `RXBUF` (R104). -/
theorem valueSlice_rxw (s : State) :
    s.rxw.extractLsb' 5 16 = (s.byteAt 5).extractLsb' 0 5 ++ s.byteAt 6 ++ (s.byteAt 7).extractLsb' 5 3 :=
  valueSlice_respWord (s.byteAt 4) (s.byteAt 5) (s.byteAt 6) (s.byteAt 7)

/-- Settles O21: `DECODE` latches the word of `RXBUF`, which it does not change. -/
theorem decodeLatchesResponse : Obligations.DecodeLatchesResponse := by
  refine ⟨fun s => ⟨resultLatched_exec_decode s, _, exec_decode s, latchFrame_rxw_err s, ?_⟩,
    fun _ => decodeHostOp_decode⟩
  rw [exec_decode, latchFrame_rxw, latchFrame_latchFrame]

/-- Settles O25: the status field, the value and the error test of `RXW` are those of its four bytes. -/
theorem decodeRefinesDecoderFunctions : Obligations.DecodeRefinesDecoderFunctions := by
  refine fun s => ⟨_, exec_decode s, statusField_rxw s, ?_, latchFrame_rxw_err s⟩
  simp only [latchFrame_value_eq_slice, valueOf_eq, frameError_iff_status, statusField_rxw, valueSlice_rxw]

/-! The two classes of response frame (R106, R107). -/

/-- Settles O22: with status `000` the latch takes its zero case, and the class is the words below bit 29. -/
theorem errorFramesDecodeToZero : Obligations.ErrorFramesDecodeToZero := by
  refine ⟨fun s herror => ?_, fun w => ⟨(and_statusMask_eq_zero_iff w).symm, ?_⟩⟩
  · have hstatus : statusField s.rxw = 0b000 := herror
    have hlatched := resultLatched_exec_decode s
    rw [hstatus, if_pos rfl] at hlatched
    refine ⟨hlatched, _, exec_decode s, ?_⟩
    rw [latchFrame_err, hstatus]
    rfl
  · rw [and_statusMask_eq_zero_iff]
    exact (leadingBits_eq_zero_iff_toNat_lt (n := 3) (k := 29) w).trans Nat.lt_succ_iff

/-- Settles O23: whichever of the seven values the status is, the latch takes the value slice. -/
theorem dataFramesDecodeToTheirField : Obligations.DataFramesDecodeToTheirField := by
  refine ⟨fun s hdata => ?_, by decide⟩
  have hstatus : statusField s.rxw ≠ 0b000 := hdata
  have hlatched := resultLatched_exec_decode s
  rw [if_neg hstatus] at hlatched
  exact ⟨hlatched, _, exec_decode s, beq_eq_false_iff_ne.mpr hstatus⟩

theorem exec_respErr (ignored : BitVec 29) (s : State) :
    exec (.respErr ignored) s = .next (latchFrame (respErrWord ignored) s) := rfl

theorem exec_respData (status : StatusField) (ignoredHi : Byte) (value : RegValue) (ignoredLo : BitVec 5) (s : State) :
    exec (.respData status ignoredHi value ignoredLo) s =
      .next (latchFrame (respDataWord status ignoredHi value ignoredLo) s) := rfl

/-- Settles O24: each row latches its own word, whose status and value are the row's operands. -/
theorem responseRowsLatchTheirResult : Obligations.ResponseRowsLatchTheirResult := by
  refine fun s => ⟨fun ignored => ?_, fun status ignoredHi value ignoredLo => ?_, ?_⟩
  · have hlatched := resultLatched_latchFrame (respErrWord ignored) s
    rwa [statusField_respErrWord, if_pos rfl, ← exec_respErr] at hlatched
  · have hlatched := resultLatched_latchFrame (respDataWord status ignoredHi value ignoredLo) s
    rwa [statusField_respDataWord, valueSlice_respDataWord, ← exec_respData] at hlatched
  · rw [exec_decodeResp, exec_decode]

/-! The value of a data frame (R109, R112). -/

/-- Settles O28: both shifts give the value field, and `DECODE` of a data frame leaves it in `VALUE`. -/
theorem rightShiftKindIrrelevant : Obligations.RightShiftKindIrrelevant := by
  refine ⟨fun w => ⟨valueField_eq_slice w, rfl, valueField_eq_sshiftRight w⟩, fun s hdata => ?_⟩
  have hvalue : (latchFrame s.rxw s).value = valueField s.rxw :=
    (latchFrame_value_of_data hdata s).trans (valueField_eq_slice s.rxw).symm
  exact ⟨_, exec_decode s, hvalue, hvalue.trans (valueField_eq_sshiftRight s.rxw)⟩

/-- A slice of a slice is a slice of the word. -/
theorem extractLsb'_extractLsb'_of_add_le {n : Nat} (v : BitVec n) {start size lo len : Nat} (h : lo + len ≤ size) :
    (v.extractLsb' start size).extractLsb' lo len = v.extractLsb' (start + lo) len := by
  ext j hj
  have hinside : lo + j < size := by omega
  simp [hinside, Nat.add_assoc]

theorem hiByte_valueSlice (w : Word) : hiByte (w.extractLsb' 5 16) = w.extractLsb' 13 8 :=
  extractLsb'_extractLsb'_of_add_le w (by decide)

/-- The high byte crosses the border of bytes 1 and 2 (R112). -/
theorem hiByteSlice_rxw (s : State) :
    s.rxw.extractLsb' 13 8 = (s.byteAt 5).extractLsb' 0 5 ++ (s.byteAt 6).extractLsb' 5 3 := by
  have hslices : s.rxw.extractLsb' 16 5 ++ s.rxw.extractLsb' 13 3 = s.rxw.extractLsb' 13 8 :=
    BitVec.extractLsb'_append_extractLsb'_eq_extractLsb' rfl
  rw [byteAt_eq_byteOf_rxw s 1 (by decide), byteAt_eq_byteOf_rxw s 2 (by decide),
    extractLsb'_byteOf s.rxw 1 0 5 (by decide), extractLsb'_byteOf s.rxw 2 5 3 (by decide)]
  exact hslices.symm

/-- Settles O29: the halves are slices of the value, and the high one is a slice of the frame that was latched. -/
theorem highByteOfDecodedValue : Obligations.HighByteOfDecodedValue := by
  refine ⟨fun v => ⟨rfl, rfl⟩, fun s hdata => ?_⟩
  have hhigh : hiByte (latchFrame s.rxw s).value = s.rxw.extractLsb' 13 8 := by
    rw [latchFrame_value_of_data hdata, hiByte_valueSlice]
  exact ⟨_, exec_decode s, hhigh, hhigh.trans (hiByteSlice_rxw s)⟩

end Sys2Proof.Machine

/-! Proofs of the family 42_host_sequence.md: the steps and the run of a host's program (R128), `IDLE` and the reserved
operation (R120, R121), the transfer (R122), the register read (R123, R124), the sequence check (R129; 70_reset_and_hazards.md
R168, R169; log entry 18) and the identity test (R125; log entry 13). -/

namespace Sys2Proof.Machine

/-! The operations without effect. -/

theorem exec_idle (s : State) : exec .idle s = .next s := rfl

theorem exec_rsvd (s : State) : exec .rsvd s = .next s := rfl

/-- An operation word runs the operation it decodes to (30_encoding.md R60, R61). -/
theorem runStep_op (b : Byte) (s : State) : runStep (.op b) s = exec (decodeHostOp b) s := rfl

theorem runStep_idle {b : Byte} (h : opField b = 0b00) (s : State) : runStep (.op b) s = .next s := by
  rw [runStep_op, decodeHostOp_idle h, exec_idle]

/-! Every step of a program answers (60_exceptions.md R140), and its answer does not hang on what the host does next. -/

/-- A step answers one state of the block, whatever list of steps stands behind it (10_state.md R20). -/
theorem runStep_answers (e : HostStep) (s : State) :
    ∃ t : State, ∀ p, runStep e { s with program := p } = .next { t with program := p } := by
  cases e with
  | op b =>
    simp only [runStep_op]
    rcases opField_cases b with h | h | h | h
    · exact ⟨s, fun p => by rw [decodeHostOp_idle h, exec_idle]⟩
    · exact ⟨{ s with frameBuffer := writeFrame s.frameBuffer Config.txBase (cmdWord (opAddrField b)) },
        fun p => by rw [decodeHostOp_frame h, exec_frame]⟩
    · exact ⟨latchFrame s.rxw s, fun p => by rw [decodeHostOp_decode h, exec_decode]; rfl⟩
    · exact ⟨s, fun p => by rw [decodeHostOp_rsvd h, exec_rsvd]⟩
  | xfer r => exact ⟨{ s with frameBuffer := writeFrame s.frameBuffer Config.rxBase r }, fun _ => transfer_eq r _⟩
  | reset => exact ⟨resetBlock s, fun _ => rfl⟩

/-- With a step left in the list the machine takes it, and that step alone. -/
theorem step_answers (s : State) (e : HostStep) (rest : List HostStep) (h : s.program = e :: rest) :
    ∃ t, step s = .next t ∧ t.program = rest := by
  obtain ⟨t, ht⟩ := runStep_answers e s
  exact ⟨{ t with program := rest }, (step_cons s e rest h).trans (ht rest), rfl⟩

/-- Settles O41: the list is empty, and the step refuses, or it is not, and the first step answers. -/
theorem stepStopsOnlyAtTheEndOfTheList : Obligations.StepStopsOnlyAtTheEndOfTheList := by
  intro s
  cases hp : s.program with
  | nil => simp [step_nil s hp, eq_comm]
  | cons e rest =>
    obtain ⟨t, ht, hrest⟩ := step_answers s e rest hp
    simp [ht, hrest]

/-! The run of a program (R128), step by step. -/

/-- A run puts its own program in place of the list that stood in the state. -/
theorem runToEnd_program (p q : List HostStep) (s : State) : runToEnd p { s with program := q } = runToEnd p s := rfl

/-- The first step of a program leads to one state, from which the rest runs, whatever the rest is. -/
theorem runToEnd_head (e : HostStep) (s : State) : ∃ t : State, ∀ p, runToEnd (e :: p) s = runToEnd p t := by
  obtain ⟨t, ht⟩ := runStep_answers e s
  exact ⟨t, fun p => (runToEnd_cons e p s _ (ht p)).trans (runToEnd_program p p t)⟩

/-- A run ends in a state, when the list is exhausted. -/
theorem runToEnd_ends (p : List HostStep) (s : State) : ∃ t, runToEnd p s = .next t ∧ t.program = [] := by
  induction p generalizing s with
  | nil => exact ⟨_, runToEnd_nil s, rfl⟩
  | cons e p ih =>
    obtain ⟨t, ht⟩ := runToEnd_head e s
    rw [ht]
    exact ih t

/-- Ends of a program that run alike can stand for each other. -/
theorem runToEnd_append_congr {p q : List HostStep} (h : ∀ s, runToEnd p s = runToEnd q s) (pre : List HostStep)
    (s : State) : runToEnd (pre ++ p) s = runToEnd (pre ++ q) s := by
  induction pre generalizing s with
  | nil => exact h s
  | cons e pre ih =>
    obtain ⟨t, ht⟩ := runToEnd_head e s
    rw [List.cons_append, List.cons_append, ht, ht]
    exact ih t

theorem runToEnd_idle_cons {b : Byte} (h : opField b = 0b00) (p : List HostStep) (s : State) :
    runToEnd (.op b :: p) s = runToEnd p s :=
  (runToEnd_cons (.op b) p s _ (runStep_idle h _)).trans (runToEnd_program p p s)

theorem runToEnd_idles_append {idles : List HostStep} (h : ∀ e ∈ idles, ∃ b, e = .op b ∧ opField b = 0b00)
    (p : List HostStep) (s : State) : runToEnd (idles ++ p) s = runToEnd p s := by
  induction idles with
  | nil => rfl
  | cons e idles ih =>
    obtain ⟨⟨b, rfl, hb⟩, hidles⟩ := List.forall_mem_cons.mp h
    rw [List.cons_append, runToEnd_idle_cons hb, ih hidles]

/-- Settles O31: `IDLE` words in front of a program do not change its run, and the steps before them lead both programs to
the same state. -/
theorem idleChangesNothing : Obligations.IdleChangesNothing := by
  refine ⟨exec_idle, fun _ => decodeHostOp_idle, fun s pre idles post hidles => ⟨runToEnd_ends _ s, ?_⟩⟩
  rw [List.append_assoc]
  exact runToEnd_append_congr (runToEnd_idles_append hidles post) pre s

/-- The reserved operation is outside the contract, with any `addr` field (30_encoding.md R62). -/
theorem outOfContract_of_opField_rsvd {b : Byte} (h : opField b = 0b11) :
    (decodeHostOp b).outOfContract = some .reservedOperation := by
  rw [decodeHostOp_rsvd h]
  rfl

/-- Settles O32: the step does nothing, and the check names the operation wherever it stands. -/
theorem reservedOperationChangesNothing : Obligations.ReservedOperationChangesNothing := by
  refine ⟨exec_rsvd, fun _ => decodeHostOp_rsvd, fun b pre rest hb hpre => ?_, fun b pre rest hb => ?_⟩
  · rw [programRefusal_append_op (outOfContract_of_opField_rsvd hb), hpre, Option.none_or]
  · exact programRefusal_append_op_ne_none (outOfContract_of_opField_rsvd hb) pre rest

/-! The transfer (R122). -/

theorem sentCommand_eq (s : State) : sentCommand s = .ok s.txw := memRead_txBase s

theorem runStep_xfer (r : Word) (s : State) :
    runStep (.xfer r) s = .next { s with frameBuffer := writeFrame s.frameBuffer Config.rxBase r } :=
  transfer_eq r s

/-- The bytes of `TXBUF` are those of `TXW` (10_state.md R16). -/
theorem txBytes_eq (s : State) : [s.byteAt 0, s.byteAt 1, s.byteAt 2, s.byteAt 3] = bytesOf s.txw :=
  (bytesOf_be32 _ _ _ _).symm

/-- The bytes of `RXBUF` are those of `RXW` (10_state.md R16). -/
theorem rxBytes_eq (s : State) : [s.byteAt 4, s.byteAt 5, s.byteAt 6, s.byteAt 7] = bytesOf s.rxw :=
  (bytesOf_be32 _ _ _ _).symm

theorem responseReceived_runStep_xfer (s : State) (r : Word) : ResponseReceived s r (runStep (.xfer r) s) :=
  ⟨_, runStep_xfer r s, readFrame_writeFrame_same s.frameBuffer Config.rxBase r,
    readByte_writeFrame_outside s.frameBuffer Config.rxBase r, rfl, rfl, rfl⟩

/-- Settles O33: the transfer reads `TXBUF` and stores the response in `RXBUF`, which lies apart from it. -/
theorem transferDeliversAnyResponse : Obligations.TransferDeliversAnyResponse := by
  refine fun s r => ⟨sentCommand_eq s, responseReceived_runStep_xfer s r, _, runStep_xfer r s,
    readFrame_txBase_writeFrame_rxBase s.frameBuffer r, ?_⟩
  rw [rxBytes_eq, mk_rxw, readFrame_writeFrame_same]

/-! The register read (R123, R124): its three steps. -/

section
variable {s : State} {rest : List HostStep}

theorem step_frame {a : Addr} (h : s.program = .op (frameOpWord a) :: rest) :
    step s = .next { s with
      frameBuffer := writeFrame s.frameBuffer Config.txBase (cmdWord a)
      program := rest } := by
  rw [step_cons s _ rest h, runStep_op, decodeHostOp_frameOpWord, exec_frame]

theorem step_xfer {r : Word} (h : s.program = .xfer r :: rest) :
    step s = .next { s with frameBuffer := writeFrame s.frameBuffer Config.rxBase r, program := rest } := by
  rw [step_cons s _ rest h, runStep_xfer]

theorem step_decode (h : s.program = .op decodeOpWord :: rest) :
    step s = .next (latchFrame s.rxw { s with program := rest }) := by
  rw [step_cons s _ rest h, runStep_op, decodeHostOp_decode rfl, exec_decode]
  rfl

end

/-- Settles O34: the command and the response are stored apart from each other, and `DECODE` latches the response. -/
theorem readRegisterEndState : Obligations.ReadRegisterEndState := by
  intro s a r rest
  refine ⟨_, _, _, step_frame rfl, step_xfer rfl, step_decode rfl, ?_, ?_, ?_, ?_, ?_, rfl⟩
  · rw [sentCommand_eq, mk_txw, readFrame_writeFrame_same]
  · rw [txBytes_eq, latchFrame_txw, mk_txw, readFrame_txBase_writeFrame_rxBase, readFrame_writeFrame_same, cmdBytes]
  · rw [rxBytes_eq, latchFrame_rxw, mk_rxw, readFrame_writeFrame_same]
  · rw [latchFrame_status, mk_rxw, readFrame_writeFrame_same, statusField]
  · rw [latchFrame_value_eq_slice, mk_rxw, readFrame_writeFrame_same, statusField]

/-! The sequence check, one rule for each step and phase. -/

section
variable {b : Byte} (phase : ReadPhase) (r : Word) (rest : List HostStep)

@[simp] theorem keepsSequence_nil : keepsSequence phase [] = true := by
  rw [keepsSequence]

theorem keepsSequence_noEffect (h : opField b = 0b00 ∨ opField b = 0b11) :
    keepsSequence phase (.op b :: rest) = keepsSequence phase rest := by
  rcases h with h | h
  · simp [keepsSequence, decodeHostOp_idle h]
  · simp [keepsSequence, decodeHostOp_rsvd h]

theorem keepsSequence_frame_quiet (h : opField b = 0b01) :
    keepsSequence .quiet (.op b :: rest) = keepsSequence .framed rest := by
  simp [keepsSequence, decodeHostOp_frame h]

/-- No command is framed inside a read (R168). -/
theorem keepsSequence_frame_of_ne_quiet (h : opField b = 0b01) (hphase : phase ≠ .quiet) :
    keepsSequence phase (.op b :: rest) = false := by
  simp [keepsSequence, decodeHostOp_frame h]

/-- No response is decoded between the command and its transfer (R169). -/
theorem keepsSequence_decode_framed (h : opField b = 0b10) : keepsSequence .framed (.op b :: rest) = false := by
  simp [keepsSequence, decodeHostOp_decode h]

theorem keepsSequence_decode_of_ne_framed (h : opField b = 0b10) (hphase : phase ≠ .framed) :
    keepsSequence phase (.op b :: rest) = keepsSequence .quiet rest := by
  simp [keepsSequence, decodeHostOp_decode h]

theorem keepsSequence_xfer_framed : keepsSequence .framed (.xfer r :: rest) = keepsSequence .answered rest := by
  rw [keepsSequence]

/-- Only a framed command is sent, and only once (R168). -/
theorem keepsSequence_xfer_of_ne_framed (hphase : phase ≠ .framed) : keepsSequence phase (.xfer r :: rest) = false := by
  simp [keepsSequence]

theorem keepsSequence_reset : keepsSequence phase (.reset :: rest) = keepsSequence .quiet rest := by
  rw [keepsSequence]

end

/-- A step is refused, whatever follows it, or leads to one phase, in which whatever follows it is judged. -/
theorem keepsSequence_head (phase : ReadPhase) (e : HostStep) :
    (∀ rest, keepsSequence phase (e :: rest) = false) ∨
      ∃ next, ∀ rest, keepsSequence phase (e :: rest) = keepsSequence next rest := by
  cases e with
  | op b =>
    rcases opField_cases b with h | h | h | h
    · exact .inr ⟨phase, fun rest => keepsSequence_noEffect phase rest (.inl h)⟩
    · by_cases hphase : phase = .quiet
      · subst hphase
        exact .inr ⟨.framed, fun rest => keepsSequence_frame_quiet rest h⟩
      · exact .inl fun rest => keepsSequence_frame_of_ne_quiet phase rest h hphase
    · by_cases hphase : phase = .framed
      · subst hphase
        exact .inl fun rest => keepsSequence_decode_framed rest h
      · exact .inr ⟨.quiet, fun rest => keepsSequence_decode_of_ne_framed phase rest h hphase⟩
    · exact .inr ⟨phase, fun rest => keepsSequence_noEffect phase rest (.inr h)⟩
  | xfer r =>
    by_cases hphase : phase = .framed
    · subst hphase
      exact .inr ⟨.answered, keepsSequence_xfer_framed r⟩
    · exact .inl fun rest => keepsSequence_xfer_of_ne_framed phase r rest hphase
  | reset => exact .inr ⟨.quiet, keepsSequence_reset phase⟩

/-- Ends of a program that are judged alike in every phase can stand for each other. -/
theorem keepsSequence_append_congr {p q : List HostStep} (h : ∀ phase, keepsSequence phase p = keepsSequence phase q)
    (pre : List HostStep) (phase : ReadPhase) : keepsSequence phase (pre ++ p) = keepsSequence phase (pre ++ q) := by
  induction pre generalizing phase with
  | nil => exact h phase
  | cons e pre ih =>
    rw [List.cons_append, List.cons_append]
    rcases keepsSequence_head phase e with hrefused | ⟨next, hnext⟩
    · rw [hrefused, hrefused]
    · rw [hnext, hnext, ih]

theorem opField_decodeOpWord : opField decodeOpWord = 0b10 := rfl

/-- A whole read brings the check back to where no read is under way (R123). -/
theorem keepsSequence_readRegSteps_append (a : Addr) (r : Word) (rest : List HostStep) :
    keepsSequence .quiet (readRegSteps a r ++ rest) = keepsSequence .quiet rest :=
  calc keepsSequence .quiet (readRegSteps a r ++ rest)
      = keepsSequence .framed (.xfer r :: .op decodeOpWord :: rest) :=
        keepsSequence_frame_quiet _ (opField_frameOpWord a)
    _ = keepsSequence .answered (.op decodeOpWord :: rest) := keepsSequence_xfer_framed r _
    _ = keepsSequence .quiet rest := keepsSequence_decode_of_ne_framed .answered rest opField_decodeOpWord (by decide)

theorem keepsSequence_flatMap_readRegSteps (reads : List (Addr × Word)) :
    keepsSequence .quiet (reads.flatMap fun x => readRegSteps x.1 x.2) = true := by
  induction reads with
  | nil => exact keepsSequence_nil .quiet
  | cons x reads ih => rw [List.flatMap_cons, keepsSequence_readRegSteps_append, ih]

/-- Settles O53: each refused program leads the check, step by step, to a step that its phase refuses. -/
theorem wholeReadsKeepTheSequence : Obligations.WholeReadsKeepTheSequence := by
  have hframe (a : Addr) (rest : List HostStep) := keepsSequence_frame_quiet rest (opField_frameOpWord a)
  have hdecode (phase : ReadPhase) (hphase : phase ≠ .framed) (rest : List HostStep) :=
    keepsSequence_decode_of_ne_framed phase rest opField_decodeOpWord hphase
  refine ⟨keepsSequence_readRegSteps_append, keepsSequence_flatMap_readRegSteps, fun phase b pre rest hb => ?_,
    keepsSequence_reset, fun r rest => keepsSequence_xfer_of_ne_framed .quiet r rest (by decide), fun a r q rest => ?_,
    fun a b r rest => ?_, fun a b rest => ?_, fun a rest => ?_, hdecode .quiet (by decide), hframe,
    keepsSequence_xfer_framed, hdecode .answered (by decide), keepsSequence_nil⟩
  · exact keepsSequence_append_congr (fun phase => keepsSequence_noEffect phase rest hb) pre phase
  · rw [hframe, keepsSequence_xfer_framed, keepsSequence_xfer_of_ne_framed .answered q rest (by decide)]
  · rw [hframe, keepsSequence_xfer_framed,
      keepsSequence_frame_of_ne_quiet .answered rest (opField_frameOpWord b) (by decide)]
  · rw [hframe, keepsSequence_frame_of_ne_quiet .framed rest (opField_frameOpWord b) (by decide)]
  · rw [hframe, keepsSequence_decode_framed rest opField_decodeOpWord]

/-! The identity test (R125; log entry 13). -/

theorem identityMatches_iff (expected : Byte) (s : State) :
    identityMatches expected s = true ↔ hiByte s.value = expected := beq_iff_eq

theorem latchFrame_value_of_error {w : Word} (h : statusField w = 0b000) (s : State) : (latchFrame w s).value = 0x0000 := by
  rw [latchFrame_value, if_pos h]

/-- Settles O30: an error frame leaves `VALUE` zero, so the test compares the expected code with `0x00`. -/
theorem identityTestAfterErrorFrame : Obligations.IdentityTestAfterErrorFrame := by
  intro s expected herror
  have hhigh : hiByte (latchFrame s.rxw s).value = 0x00 := by
    rw [latchFrame_value_of_error herror]
    rfl
  refine ⟨_, exec_decode s, hhigh, ?_⟩
  rw [identityMatches_iff, hhigh, eq_comm]

end Sys2Proof.Machine


/-! Proofs of the family 60_exceptions.md: no operation raises an exception, traps, stalls or refuses (R140). -/

namespace Sys2Proof.Machine

/-- The framer stores inside the space, and the two other things an instruction can do cannot fail. -/
theorem exec_answers (i : Instr) (s : State) : ∃ t, exec i s = .next t := by
  rcases exec_cases i s with ⟨a, hissue⟩ | ⟨w, hlatch⟩ | hnone
  · exact ⟨_, hissue.trans (issueCommand_eq a s)⟩
  · exact ⟨_, hlatch⟩
  · exact ⟨_, hnone⟩

/-- Settles O40: an operation word runs an instruction, `XFER` stores inside the space, and `RESET` cannot fail. -/
theorem noOperationStops : Obligations.NoOperationStops := by
  refine ⟨exec_answers, fun e s => ?_⟩
  cases e with
  | op b => exact exec_answers (decodeHostOp b) s
  | xfer r => exact ⟨_, runStep_xfer r s⟩
  | reset => exact ⟨resetBlock s, rfl⟩

end Sys2Proof.Machine

/-! Proofs of the family 70_reset_and_hazards.md: the `RESET` step (R160; log entry 12) and the hazards of a broken sequence:
the later of two commands is sent (R168), and a `DECODE` before the transfer latches the old response (R169). -/

namespace Sys2Proof.Machine

/-! The reset step (R160). -/

theorem runStep_reset (s : State) : runStep .reset s = .next (resetBlock s) := rfl

/-- Settles O3: the step taken from the list is `RESET`, which keeps the rest of the list and nothing else. -/
theorem resetStepClearsBlock : Obligations.ResetStepClearsBlock := by
  intro s rest
  rw [step_cons _ .reset rest rfl, runStep_reset, resetBlock]

/-! Reframing before the transfer (R168). -/

theorem keepsSequence_frame_frame (a b : Addr) (rest : List HostStep) :
    keepsSequence .quiet (.op (frameOpWord a) :: .op (frameOpWord b) :: rest) = false :=
  (keepsSequence_frame_quiet _ (opField_frameOpWord a)).trans
    (keepsSequence_frame_of_ne_quiet .framed rest (opField_frameOpWord b) (by decide))

/-- Settles O35: the second `FRAME` stores its command whatever the first left in `TXBUF`, and the transfer sends what
stands there. -/
theorem reframingLosesTheCommand : Obligations.ReframingLosesTheCommand := by
  refine fun s a b => ⟨?_, keepsSequence_frame_frame a b, keepsSequence_readRegSteps_append a⟩
  obtain ⟨t, hframeA, -⟩ := commandIssued_exec_frame a s
  obtain ⟨u, hframeB, htxw, -⟩ := commandIssued_exec_frame b t
  refine ⟨t, u, hframeA, hframeB, ?_, ?_⟩
  · rw [sentCommand_eq, htxw]
  · rw [txBytes_eq, htxw, cmdBytes]

/-! Decoding before the transfer (R169). -/

/-- Storing a command keeps the response frame: the two buffers do not overlap (20_memory.md R30). -/
@[simp] theorem readFrame_rxBase_writeFrame_txBase (m : Memory) (w : Word) :
    readFrame (writeFrame m Config.txBase w) Config.rxBase = readFrame m Config.rxBase :=
  readFrame_writeFrame_apart m _ _ w (.inr (by decide))

/-- A `DECODE` right after a `FRAME` latches the response that `RXBUF` held before the two. -/
theorem exec_frame_then_decode (a : Addr) (s : State) :
    ∃ t, exec (.frame a) s = .next t ∧ exec .decode t = .next (latchFrame s.rxw t) := by
  refine ⟨_, exec_frame a s, ?_⟩
  rw [exec_decode, mk_rxw, readFrame_rxBase_writeFrame_txBase, State.rxw]

theorem keepsSequence_frame_decode (a : Addr) (rest : List HostStep) :
    keepsSequence .quiet (.op (frameOpWord a) :: .op decodeOpWord :: rest) = false :=
  (keepsSequence_frame_quiet _ (opField_frameOpWord a)).trans (keepsSequence_decode_framed rest opField_decodeOpWord)

/-- A whole read alone keeps the sequence (R123). -/
theorem keepsSequence_readRegSteps (a : Addr) (r : Word) : keepsSequence .quiet (readRegSteps a r) = true :=
  (keepsSequence_readRegSteps_append a r []).trans (keepsSequence_nil .quiet)

/-- Settles O36: `FRAME` leaves `RXBUF` alone, so the early `DECODE` latches the old response, from reset the all-zero frame;
and only `DECODE` latches, so the transfer leaves the old results. -/
theorem decodingEarlyGivesTheOldResponse : Obligations.DecodingEarlyGivesTheOldResponse := by
  refine ⟨fun s a => ?_, fun a => ?_, fun s r => ?_, keepsSequence_frame_decode, keepsSequence_readRegSteps⟩
  · obtain ⟨t, hframe, hdecode⟩ := exec_frame_then_decode a s
    exact ⟨t, _, hframe, hdecode, latchFrame_status s.rxw t, latchFrame_value_eq_slice s.rxw t⟩
  · obtain ⟨t, hframe, hdecode⟩ := exec_frame_then_decode a State.reset
    refine ⟨t, _, hframe, hdecode, ?_⟩
    rw [reset_rxw, latchFrame_err]
    decide
  · obtain ⟨t, hxfer, -, -, hvalue, hstatus, -⟩ := responseReceived_runStep_xfer s r
    exact ⟨t, hxfer, hvalue, hstatus⟩

end Sys2Proof.Machine

/-! Proofs of the family of the sample words: which instruction the bits of a row stand for, given the length of the row
(log entries 7, 15, 16). -/

namespace Sys2Proof.Machine

/-! The decoder over a row's bits, format by format. -/

/-- Eight bits are an operation word (R60). -/
theorem decodeTableWord_hostOp (w : Nat) : decodeTableWord 8 w = some (decodeHostOp (BitVec.ofNat 8 w)) := rfl

/-- The command decoder goes first, and the response decoder takes every word that is no command (log entry 7). -/
theorem decodeWire_bytesOf (w : Word) :
    decodeWire (bytesOf w) = .ok (if isCmdWord w then readRow (addrField w) else decodeResp w) := by
  rw [decodeWire, decodeBytes_cmd32_bytesOf, decodeBytes_resp32_bytesOf]
  cases hcmd : decodeCmd w with
  | ok i =>
    obtain ⟨hw, rfl⟩ := (decodeCmd_eq_ok_iff w i).mp hcmd
    rw [if_pos hw]
  | error e =>
    have hnot : ¬ isCmdWord w = true := fun hw => by
      rw [(decodeCmd_eq_ok_iff w _).mpr ⟨hw, rfl⟩] at hcmd
      cases hcmd
    rw [if_neg hnot]

theorem decodeTableWord_wire (w : Nat) :
    decodeTableWord 32 w = some (if isCmdWord (BitVec.ofNat 32 w) then readRow (addrField (BitVec.ofNat 32 w))
      else decodeResp (BitVec.ofNat 32 w)) :=
  congrArg Except.toOption (decodeWire_bytesOf (BitVec.ofNat 32 w))

/-- The bits of an address's command word are read as that address's row, never as the data frame they also are. -/
theorem decodeTableWord_of_eq_cmdWord {w : Nat} {a : Addr} (h : BitVec.ofNat 32 w = cmdWord a) :
    decodeTableWord 32 w = some (readRow a) := by
  rw [decodeTableWord_wire, h, if_pos (isCmdWord_cmdWord a), addrField_cmdWord]

theorem respErrWord_readFlag (ignored : BitVec 29) : (respErrWord ignored).getLsbD 31 = false :=
  (BitVec.getLsbD_append : (0b000#3 ++ ignored).getLsbD 31 = _).trans (by simp)

/-- An error frame has no read flag, so it is no command word. -/
theorem isCmdWord_respErrWord (ignored : BitVec 29) : ¬ isCmdWord (respErrWord ignored) = true := by
  intro h
  obtain ⟨hflag, -⟩ := (isCmdWord_iff _).mp h
  rw [respErrWord_readFlag] at hflag
  cases hflag

theorem decodeTableWord_of_eq_respErrWord {w : Nat} {ignored : BitVec 29}
    (h : BitVec.ofNat 32 w = respErrWord ignored) : decodeTableWord 32 w = some (.respErr ignored) := by
  rw [decodeTableWord_wire, h, if_neg (isCmdWord_respErrWord ignored), decodeResp_respErrWord]

/-- A data frame is read as one only where its bits are no command word (log entry 7). -/
theorem decodeTableWord_of_eq_respDataWord {w : Nat} {status : StatusField} {ignoredHi : Byte} {value : RegValue}
    {ignoredLo : BitVec 5} (h : BitVec.ofNat 32 w = respDataWord status ignoredHi value ignoredLo)
    (hstatus : status ≠ 0b000) (hcmd : ¬ isCmdWord (respDataWord status ignoredHi value ignoredLo) = true) :
    decodeTableWord 32 w = some (.respData status ignoredHi value ignoredLo) := by
  rw [decodeTableWord_wire, h, if_neg hcmd, decodeResp_respDataWord hstatus]

/-- Settles O51: each sample's bits are the encoding of its operands, and the decoder of its format gives them back. -/
theorem decodedSampleWords : Obligations.DecodedSampleWords := by
  refine ⟨?idle, ?frame, ?decode, ?rsvd, ?readPid, ?read, ?respErr, ?respData⟩
  case idle => rw [decodeTableWord_hostOp, decodeHostOp_idle (by decide)]
  case frame =>
    have hword : BitVec.ofNat 8 0b01001100 = frameOpWord 0x0C := rfl
    rw [decodeTableWord_hostOp, hword, decodeHostOp_frameOpWord]
  case decode => rw [decodeTableWord_hostOp, decodeHostOp_decode (by decide)]
  case rsvd => rw [decodeTableWord_hostOp, decodeHostOp_rsvd (by decide)]
  case readPid => exact decodeTableWord_of_eq_cmdWord (a := regAddr .pid) (by decide)
  case read =>
    rw [← readRow_of_not_isEnumerated (a := 0x3F) (by decide)]
    exact decodeTableWord_of_eq_cmdWord (by decide)
  case respErr => exact decodeTableWord_of_eq_respErrWord (by decide)
  case respData => exact decodeTableWord_of_eq_respDataWord (by decide) (by decide) (by decide)

end Sys2Proof.Machine
